-- ==== Sys2Proof/Word.lean ====
section
/-! DEFINITION. The word types of the Rust-Boy CORE (spec/00_scope.md R6, R7) and the names of its 8-bit registers and
combined views (spec/10_state.md R20, R23). -/
namespace Sys2Proof

/-- An 8-bit data value (R6). -/
abbrev Byte := BitVec 8

/-- A 16-bit address or combined value (R6). -/
abbrev Word := BitVec 16

/-- The seven 8-bit general registers (R20). -/
inductive Reg8
  | b | c | d | e | h | l | a
deriving DecidableEq, Repr

/-- The three combined 16-bit views (R23). -/
inductive Pair
  | bc | de | hl
deriving DecidableEq, Repr

end Sys2Proof
end

