-- ==== Sys2Proof/Config.lean ====
section
/-! DEFINITION. The open parameters of the hardware (spec/00_scope.md R6) that are fixed for a machine. Each is an opaque
constant: no proof can see its value, so a statement holds for every value R6 allows. The images `BOOT_IMAGE` and `CART_IMAGE`
are arguments of `Machine.State.powerOn`, `EXT_HANDLERS` of `Machine.stepWith` (log entry 4). -/
namespace Sys2Proof

/-- `A_RESET`, the value of register A after reset (R6, R20). Unconstrained. DESIGN CHOICE, safe (log entry 1). -/
opaque Config.aReset : Byte

/-- What `VISIBLE_LINES` is made from, so that it is between 1 and 255. DESIGN CHOICE, safe (log entry 2). -/
opaque Config.visibleSeed : Fin 255

/-- What `VBLANK_LINES` is made from, so that it is positive and the sum is at most 256. DESIGN CHOICE, safe (log entry 2). -/
opaque Config.vblankSeed : Nat

/-- `VISIBLE_LINES`, a positive integer (R6). -/
def Config.visibleLines : Nat := Config.visibleSeed.val + 1

/-- `VBLANK_LINES`, a positive integer with `VISIBLE_LINES + VBLANK_LINES` at most 256 (R6). Every pair R6 allows is the pair
of some two seeds. -/
def Config.vblankLines : Nat := Config.vblankSeed % (256 - Config.visibleLines) + 1

/-- `TOTAL_LINES` (R6). -/
def Config.totalLines : Nat := Config.visibleLines + Config.vblankLines

/-- `LCD_SCHEDULE`: how many `LcdAdvance` events follow the n-th committed CPU step (R6, spec/50_lcd_controller.md R191).
Unconstrained. DESIGN CHOICE, safe (log entry 3). -/
opaque Config.lcdSchedule : Nat → Nat

end Sys2Proof
end

