-- ==== Sys2Proof/Machine/State.lean ====
section
/-! DEFINITION. The state of the Rust-Boy CORE (spec/10_state.md R20 to R31), its fault records (spec/60_exceptions.md R220),
the reasons a step can stop, and the state after reset (spec/70_reset_and_hazards.md R250). -/
namespace Sys2Proof.Machine

/-- The four flags; there is no byte layout (R21). -/
structure Flags where
  z : Bool
  n : Bool
  h : Bool
  c : Bool
deriving DecidableEq, Repr

/-- Whether a memory access reads or writes (R220). -/
inductive Access
  | read
  | write
deriving DecidableEq, Repr

/-- Which dispatch table has no handler (R220). -/
inductive OpTable
  | primary
  | secondary
deriving DecidableEq, Repr

/-- The reasons of a ProtocolViolation (R225). -/
inductive Violation
  | lcdDisableOutsideVBlank
  | unsupportedRegisterRead
  | unsupportedRegisterWrite
deriving DecidableEq, Repr

/-- A fault record (R220). -/
inductive FaultRecord
  | decodeFault (table : OpTable) (opcode : Byte) (pc : Word)
  | addressFault (addr : Word) (access : Access)
  | writeProtectFault (addr : Word) (value : Byte)
  | protocolViolation (addr : Word) (reason : Violation)
deriving DecidableEq, Repr

/-- The byte arrays ROM, VRAM, WRAM and HRAM (R28) as one list of (address, byte) pairs keyed by the full 16-bit address, in
the canonical form of `Memory.wf` (log entry 6). -/
abbrev Memory := List Host.Cell

/-- The eight flags of `lcdc` (R30). -/
structure Lcdc where
  enable : Bool
  windowMapSelect : Bool
  windowEnable : Bool
  tileDataSelect : Bool
  bgMapSelect : Bool
  spriteSize : Bool
  spriteEnable : Bool
  bgEnable : Bool
deriving DecidableEq, Repr

/-- The colours of a palette slot (R29, spec/50_lcd_controller.md R186). -/
inductive Colour
  | white
  | lightGray
  | darkGray
  | black
deriving DecidableEq, Repr

/-- The four slots of the background palette (R29). -/
structure Palette where
  slot0 : Colour
  slot1 : Colour
  slot2 : Colour
  slot3 : Colour
deriving DecidableEq, Repr

/-- The modes of the LCD controller (R29). -/
inductive LcdMode
  | accessOam
  | accessVram
  | hBlank
  | vBlank
deriving DecidableEq, Repr

/-- The LCD controller but for VRAM, which is part of `State.mem` (R29). `currentLine` is a number; it stays below
`Config.totalLines` (R192, log entry 11). -/
structure Lcd where
  lcdc : Lcdc
  scy : Byte
  scx : Byte
  palette : Palette
  currentLine : Nat
  mode : LcdMode
deriving DecidableEq, Repr

/-- The four wave duties, selectors 0 to 3 (R31). -/
inductive Duty
  | eighth
  | quarter
  | half
  | threeQuarters
deriving DecidableEq, Repr

/-- The envelope direction: 0 decreasing, 1 increasing (R31). -/
inductive EnvDir
  | decreasing
  | increasing
deriving DecidableEq, Repr

/-- A mixing channel (R31); in `route` bit 0 is pulse A, bit 1 pulse B, bit 2 wave, bit 3 noise. -/
structure MixChannel where
  volume : BitVec 3
  vin : Bool
  route : BitVec 4
deriving DecidableEq, Repr

/-- The parameters of voice pulse A (R31). -/
structure PulseA where
  duty : Duty
  length : Nat
  envInitialVolume : BitVec 4
  envSteps : BitVec 3
  envDir : EnvDir
deriving DecidableEq, Repr

/-- The sound controller (R31). -/
structure Snd where
  enabled : Bool
  mixLo : MixChannel
  mixHi : MixChannel
  pulseA : PulseA
deriving DecidableEq, Repr

/-- The machine. `steps` is the model's own field: how many CPU steps have committed, the argument of `LCD_SCHEDULE`
(spec/50_lcd_controller.md R191, log entry 3). Every other field is the spec's (R20 to R31). -/
structure State where
  a : Byte
  b : Byte
  c : Byte
  d : Byte
  e : Byte
  h : Byte
  l : Byte
  flags : Flags
  sp : Word
  pc : Word
  fault : Option FaultRecord
  mem : Memory
  lcd : Lcd
  snd : Snd
  steps : Nat
deriving DecidableEq, Repr

/-- Why the machine stops. -/
inductive Fault
  /-- Raised by `step` when the fault latch is set: the CPU core and the LCD driver have no step (R27, R234; "stuck" in
  spec/93_implementation_defined.md I14). The step that RAISES a fault is a next state, with the latch set (log entry 7).
  Safe: the hardware takes no step either. -/
  | halted (r : FaultRecord)
deriving DecidableEq, Repr

/-- Why an instruction has no meaning. -/
inductive Refusal
  /-- Raised by an arm of `exec` whose instruction has no meaning; no arm does. Safe: nothing is claimed of the
  instruction. -/
  | notModelled (mnemonic : String)
deriving DecidableEq, Repr

/-- The outcome of a step or of an instruction. -/
abbrev Result := Host.Outcome State Fault Refusal

/-- The LCD controller after reset (R29, R250). -/
def Lcd.reset : Lcd :=
  { lcdc := ⟨false, false, false, false, false, false, false, false⟩, scy := 0x00#8, scx := 0x00#8,
    palette := ⟨.white, .white, .white, .white⟩, currentLine := 0, mode := .accessOam }

/-- The sound controller after reset (R31, R250). -/
def Snd.reset : Snd :=
  { enabled := false, mixLo := ⟨0#3, false, 0#4⟩, mixHi := ⟨0#3, false, 0#4⟩,
    pulseA := { duty := .eighth, length := 0, envInitialVolume := 0#4, envSteps := 0#3, envDir := .decreasing } }

/-- The machine right after reset (R250), with both ROM images empty (R252; `State.powerOn` takes the images, log entry 5).
`a` is the open parameter `A_RESET` (log entry 1); `steps` is the model's own (log entry 3). -/
def State.reset : State :=
  { a := Config.aReset, b := 0x00#8, c := 0x00#8, d := 0x00#8, e := 0x00#8, h := 0x00#8, l := 0x00#8,
    flags := ⟨false, false, false, false⟩, sp := 0x0000#16, pc := 0x0000#16, fault := none, mem := [],
    lcd := Lcd.reset, snd := Snd.reset, steps := 0 }

end Sys2Proof.Machine
end

