-- ==== Sys2Proof/Machine/Flags.lean ====
section
/-! DEFINITION. Every flag computation of the instruction set (spec/10_state.md R21) and the rotation the flags are computed
with. Instructions not named here leave all four flags unchanged. -/
namespace Sys2Proof.Machine

/-- `v[3:0]`. -/
def lowNibble (v : Byte) : BitVec 4 := v.extractLsb' 0 4

/-- The flags after `INC r` on the old value (spec/40_inc_dec.md R130). -/
def incFlags (old : Byte) (f : Flags) : Flags :=
  { z := old + 1#8 == 0#8, n := false, h := lowNibble old == 0xF#4, c := f.c }

/-- The flags after `DEC r` on the old value (R131). Half-carry is set when the low nibble was NOT zero: spec/90_conflicts.md
C2. -/
def decFlags (old : Byte) (f : Flags) : Flags :=
  { z := old - 1#8 == 0#8, n := true, h := lowNibble old != 0x0#4, c := f.c }

/-- The result of `RotL(v)` with carry in `cin` (spec/42_rotate_xor_compare.md R150). -/
def rotL (v : Byte) (cin : Bool) : Byte := (v <<< 1) ||| (if cin then 1#8 else 0#8)

/-- The flags after `RotL(v)` (R150). The zero flag reflects the result for `RLA` too. -/
def rotLFlags (v : Byte) (cin : Bool) : Flags :=
  { z := rotL v cin == 0#8, n := false, h := false, c := v.getLsbD 7 }

/-- The flags after `XOR A` (R151). -/
def xorSelfFlags : Flags := { z := true, n := false, h := false, c := false }

/-- The flags after `CP d8` with `A = a`, `d8 = n` (R152). -/
def compareFlags (a n : Byte) : Flags :=
  { z := a == n, n := true, h := decide (lowNibble a < lowNibble n), c := decide (a < n) }

/-- The flags after `BIT b,r` on the register's value (spec/44_cb_prefixed.md R172). -/
def bitFlags (b : BitVec 3) (v : Byte) (f : Flags) : Flags :=
  { z := !v.getLsbD b.toNat, n := false, h := true, c := f.c }

end Sys2Proof.Machine
end

