-- ==== Sys2Proof/Machine/Lcd.lean ====
section
/-! DEFINITION. The LCD controller's registers and mode state machine (spec/50_lcd_controller.md R180 to R195). -/
namespace Sys2Proof.Machine

/-- `Colour(i)` (R186). -/
def colourOf (i : BitVec 2) : Colour :=
  match i.toNat with
  | 0 => .white
  | 1 => .lightGray
  | 2 => .darkGray
  | _ => .black

/-- The palette decoded from a written byte (R185). -/
def paletteOf (v : Byte) : Palette :=
  { slot0 := colourOf (v.extractLsb' 0 2), slot1 := colourOf (v.extractLsb' 2 2),
    slot2 := colourOf (v.extractLsb' 4 2), slot3 := colourOf (v.extractLsb' 6 2) }

/-- The eight flags decoded from a written control byte (R183; the bits are those of spec/10_state.md R30). -/
def lcdcOf (v : Byte) : Lcdc :=
  { enable := v.getLsbD 7, windowMapSelect := v.getLsbD 6, windowEnable := v.getLsbD 5, tileDataSelect := v.getLsbD 4,
    bgMapSelect := v.getLsbD 3, spriteSize := v.getLsbD 2, spriteEnable := v.getLsbD 1, bgEnable := v.getLsbD 0 }

/-- Write of `v` to LCD_CONTROL at `addr` (R183): clearing `enable` is legal only in VBlank and then resets the line. -/
def Lcd.writeControl (l : Lcd) (addr : Word) (v : Byte) : Except FaultRecord Lcd :=
  if l.lcdc.enable && !v.getLsbD 7 then
    if l.mode = .vBlank then .ok { l with lcdc := lcdcOf v, currentLine := 0 }
    else .error (.protocolViolation addr .lcdDisableOutsideVBlank)
  else .ok { l with lcdc := lcdcOf v }

/-- `LcdWrite(addr, v)` for an address of the LCD window (R181, R184, R185, R189). -/
def Lcd.write (l : Lcd) (addr : Word) (v : Byte) : Except FaultRecord Lcd :=
  if addr = 0xFF40#16 then l.writeControl addr v
  else if addr = 0xFF42#16 then .ok { l with scy := v }
  else if addr = 0xFF43#16 then .ok { l with scx := v }
  else if addr = 0xFF47#16 then .ok { l with palette := paletteOf v }
  else .error (.protocolViolation addr .unsupportedRegisterWrite)

/-- A read of an address of the LCD window: the current line, else a violation (R187, R188). -/
def Lcd.read (l : Lcd) (addr : Word) : Except FaultRecord Byte :=
  if addr = 0xFF44#16 then .ok (BitVec.ofNat 8 l.currentLine)
  else .error (.protocolViolation addr .unsupportedRegisterRead)

/-- The mode that follows (R190). -/
def nextMode : LcdMode → LcdMode
  | .accessOam => .accessVram
  | .accessVram => .hBlank
  | .hBlank => .vBlank
  | .vBlank => .accessOam

/-- The line after an event: counted when the ring of modes closes, modulo `total` (R190). -/
def nextLine (total : Nat) (m : LcdMode) (line : Nat) : Nat :=
  if m = .vBlank then (line + 1) % total else line

/-- `k` events on the mode and the line, one after the other, with `TOTAL_LINES = total` (R190, R191). -/
def lcdEvents (total : Nat) : Nat → LcdMode × Nat → LcdMode × Nat
  | 0, p => p
  | k + 1, p => lcdEvents total k (nextMode p.1, nextLine total p.1 p.2)

/-- `k` `LcdAdvance` events: only the mode and the line change (R190). -/
def Lcd.run (l : Lcd) (total k : Nat) : Lcd :=
  { l with mode := (lcdEvents total k (l.mode, l.currentLine)).1,
           currentLine := (lcdEvents total k (l.mode, l.currentLine)).2 }

/-- `LcdAdvance`, one event (R190). -/
def Lcd.advance (l : Lcd) (total : Nat) : Lcd := l.run total 1

end Sys2Proof.Machine
end

