-- ==== Sys2Proof/Syntax.lean ====
section
/-! DEFINITION. The instructions of the Rust-Boy CORE: one constructor per row of spec/opcode_table.json (spec/30_encoding.md
R106, R107, R112), in the table's order, and the families of them by operand. -/
namespace Sys2Proof

/-- The instructions; an immediate byte or word that follows the opcode is an argument. -/
inductive Instr
  -- `INC r` (spec/40_inc_dec.md R130)
  | incB | incC | incD | incE | incH | incL | incA
  -- `DEC r` (R131)
  | decB | decC | decD | decE | decH | decL | decA
  -- `LD r,d8` (spec/41_loads.md R140); `n` is d8
  | ldBImm (n : Byte) | ldCImm (n : Byte) | ldDImm (n : Byte) | ldEImm (n : Byte) | ldHImm (n : Byte) | ldLImm (n : Byte) | ldAImm (n : Byte)
  -- `LD rr,d16` (R141); `nn` is d16
  | ldBcImm (nn : Word) | ldDeImm (nn : Word) | ldHlImm (nn : Word) | ldSpImm (nn : Word)
  -- The loads and stores through HL (R142 to R147)
  | ldHlA | ldAHl | ldHlIncA | ldAHlInc | ldHlDecA | ldAHlDec
  -- `RLA`, `XOR A`, `CP d8` (spec/42_rotate_xor_compare.md R150 to R152)
  | rla | xorA | cpImm (n : Byte)
  -- `JR e`, `JR NZ,e`, `JR Z,e` (spec/43_jumps_stack.md R160 to R162); `e` is the displacement byte
  | jr (e : Byte) | jrNz (e : Byte) | jrZ (e : Byte)
  -- `PUSH rr` (R165)
  | pushBc | pushDe | pushHl
  -- `POP rr` (R166)
  | popBc | popDe | popHl
  -- `CALL a16`, `RET` (R167, R168)
  | call (nn : Word) | ret
  -- `PREFIX CB` followed by `op2` (spec/44_cb_prefixed.md R170, log entry 8)
  | prefixCb (op2 : Byte)
  -- `RL r` (R171)
  | rlB | rlC | rlD | rlE | rlH | rlL | rlA
  -- `BIT b,r` (R172)
  | bit0B | bit0C | bit0D | bit0E | bit0H | bit0L | bit0A
  | bit1B | bit1C | bit1D | bit1E | bit1H | bit1L | bit1A
  | bit2B | bit2C | bit2D | bit2E | bit2H | bit2L | bit2A
  | bit3B | bit3C | bit3D | bit3E | bit3H | bit3L | bit3A
  | bit4B | bit4C | bit4D | bit4E | bit4H | bit4L | bit4A
  | bit5B | bit5C | bit5D | bit5E | bit5H | bit5L | bit5A
  | bit6B | bit6C | bit6D | bit6E | bit6H | bit6L | bit6A
  | bit7B | bit7C | bit7D | bit7E | bit7H | bit7L | bit7A
deriving DecidableEq, Repr

/-- `INC r` by its register. -/
def Instr.incOf : Reg8 → Instr
  | .b => .incB
  | .c => .incC
  | .d => .incD
  | .e => .incE
  | .h => .incH
  | .l => .incL
  | .a => .incA

/-- `DEC r` by its register. -/
def Instr.decOf : Reg8 → Instr
  | .b => .decB
  | .c => .decC
  | .d => .decD
  | .e => .decE
  | .h => .decH
  | .l => .decL
  | .a => .decA

/-- `LD r,d8` by its register. -/
def Instr.ldImmOf : Reg8 → Byte → Instr
  | .b, n => .ldBImm n
  | .c, n => .ldCImm n
  | .d, n => .ldDImm n
  | .e, n => .ldEImm n
  | .h, n => .ldHImm n
  | .l, n => .ldLImm n
  | .a, n => .ldAImm n

/-- `LD rr,d16` by its combined view. -/
def Instr.ldPairImmOf : Pair → Word → Instr
  | .bc, nn => .ldBcImm nn
  | .de, nn => .ldDeImm nn
  | .hl, nn => .ldHlImm nn

/-- `PUSH rr` by its combined view. -/
def Instr.pushOf : Pair → Instr
  | .bc => .pushBc
  | .de => .pushDe
  | .hl => .pushHl

/-- `POP rr` by its combined view. -/
def Instr.popOf : Pair → Instr
  | .bc => .popBc
  | .de => .popDe
  | .hl => .popHl

/-- `RL r` by its register. -/
def Instr.rlOf : Reg8 → Instr
  | .b => .rlB
  | .c => .rlC
  | .d => .rlD
  | .e => .rlE
  | .h => .rlH
  | .l => .rlL
  | .a => .rlA

/-- `BIT b,r` by its bit number and its register. -/
def Instr.bitOf (b : BitVec 3) (r : Reg8) : Instr :=
  match b.toNat, r with
  | 0, .b => .bit0B
  | 1, .b => .bit1B
  | 2, .b => .bit2B
  | 3, .b => .bit3B
  | 4, .b => .bit4B
  | 5, .b => .bit5B
  | 6, .b => .bit6B
  | _, .b => .bit7B
  | 0, .c => .bit0C
  | 1, .c => .bit1C
  | 2, .c => .bit2C
  | 3, .c => .bit3C
  | 4, .c => .bit4C
  | 5, .c => .bit5C
  | 6, .c => .bit6C
  | _, .c => .bit7C
  | 0, .d => .bit0D
  | 1, .d => .bit1D
  | 2, .d => .bit2D
  | 3, .d => .bit3D
  | 4, .d => .bit4D
  | 5, .d => .bit5D
  | 6, .d => .bit6D
  | _, .d => .bit7D
  | 0, .e => .bit0E
  | 1, .e => .bit1E
  | 2, .e => .bit2E
  | 3, .e => .bit3E
  | 4, .e => .bit4E
  | 5, .e => .bit5E
  | 6, .e => .bit6E
  | _, .e => .bit7E
  | 0, .h => .bit0H
  | 1, .h => .bit1H
  | 2, .h => .bit2H
  | 3, .h => .bit3H
  | 4, .h => .bit4H
  | 5, .h => .bit5H
  | 6, .h => .bit6H
  | _, .h => .bit7H
  | 0, .l => .bit0L
  | 1, .l => .bit1L
  | 2, .l => .bit2L
  | 3, .l => .bit3L
  | 4, .l => .bit4L
  | 5, .l => .bit5L
  | 6, .l => .bit6L
  | _, .l => .bit7L
  | 0, .a => .bit0A
  | 1, .a => .bit1A
  | 2, .a => .bit2A
  | 3, .a => .bit3A
  | 4, .a => .bit4A
  | 5, .a => .bit5A
  | 6, .a => .bit6A
  | _, .a => .bit7A

end Sys2Proof
end

