-- ==== Sys2Proof/WellFormed.lean ====
section
/-! DEFINITION. Which terms of `Instr` the hardware's tables give. Register, view and bit operands are constructors and an
immediate may hold any value (spec/30_encoding.md R105), so one check is left: the prefix followed by a REGISTERED secondary
opcode is that secondary instruction's own constructor (R107, log entry 8). -/
namespace Sys2Proof

/-- The patterns of R107: `00 010 zzz` and `01 bbb zzz` with zzz not 6. -/
def registeredSecondary (op2 : Byte) : Bool :=
  (op2.toNat / 8 == 2 || op2.toNat / 64 == 1) && op2.toNat % 8 != 6

/-- `Instr.wellFormed i`: `i` is what some instruction bytes stand for. -/
def Instr.wellFormed : Instr → Bool
  | .prefixCb op2 => !registeredSecondary op2
  | .incB | .incC | .incD | .incE | .incH | .incL | .incA | .decB | .decC | .decD | .decE | .decH | .decL | .decA
  | .ldBImm _ | .ldCImm _ | .ldDImm _ | .ldEImm _ | .ldHImm _ | .ldLImm _ | .ldAImm _ | .ldBcImm _ | .ldDeImm _
  | .ldHlImm _ | .ldSpImm _ | .ldHlA | .ldAHl | .ldHlIncA | .ldAHlInc | .ldHlDecA | .ldAHlDec | .rla | .xorA
  | .cpImm _ | .jr _ | .jrNz _ | .jrZ _ | .pushBc | .pushDe | .pushHl | .popBc | .popDe | .popHl | .call _ | .ret
  | .rlB | .rlC | .rlD | .rlE | .rlH | .rlL | .rlA | .bit0B | .bit0C | .bit0D | .bit0E | .bit0H | .bit0L | .bit0A
  | .bit1B | .bit1C | .bit1D | .bit1E | .bit1H | .bit1L | .bit1A | .bit2B | .bit2C | .bit2D | .bit2E | .bit2H
  | .bit2L | .bit2A | .bit3B | .bit3C | .bit3D | .bit3E | .bit3H | .bit3L | .bit3A | .bit4B | .bit4C | .bit4D
  | .bit4E | .bit4H | .bit4L | .bit4A | .bit5B | .bit5C | .bit5D | .bit5E | .bit5H | .bit5L | .bit5A | .bit6B
  | .bit6C | .bit6D | .bit6E | .bit6H | .bit6L | .bit6A | .bit7B | .bit7C | .bit7D | .bit7E | .bit7H | .bit7L
  | .bit7A => true

end Sys2Proof
end

