-- ==== Sys2Proof/Decode.lean ====
section
/-! DEFINITION. Instruction bytes to instructions and back (spec/30_encoding.md R100 to R108): the primary table, the secondary
table, the decoder over a list of bytes, the encoder, and `decodeTableWord`, the decoder on a word numbered as
spec/opcode_table.json numbers it. The byte-order and bit-field helpers of the model stand here too. -/
namespace Sys2Proof

/-- Bits 7 to 0 of a 16-bit value. -/
def loByte (w : Word) : Byte := w.extractLsb' 0 8

/-- Bits 15 to 8 of a 16-bit value. -/
def hiByte (w : Word) : Byte := w.extractLsb' 8 8

/-- `hi ++ lo` of spec/00_scope.md R7. -/
def joinBytes (hi lo : Byte) : Word := hi ++ lo

/-- The two immediate bytes of a 16-bit value, low byte first (R105). -/
def immWord (nn : Word) : List Byte := [loByte nn, hiByte nn]

/-- An entry of the primary table by its format (R101): the instruction, or the instruction as a function of its immediate. -/
inductive Entry
  | plain (i : Instr)
  | imm8 (f : Byte → Instr)
  | imm16 (f : Word → Instr)
  | secondaryTable

/-- Primary table, `INC r` and `DEC r` (R106). -/
def primaryIncDec : List (Byte × Entry) :=
  [(0x04#8, .plain .incB), (0x0C#8, .plain .incC), (0x14#8, .plain .incD), (0x1C#8, .plain .incE),
   (0x24#8, .plain .incH), (0x2C#8, .plain .incL), (0x3C#8, .plain .incA), (0x05#8, .plain .decB),
   (0x0D#8, .plain .decC), (0x15#8, .plain .decD), (0x1D#8, .plain .decE), (0x25#8, .plain .decH),
   (0x2D#8, .plain .decL), (0x3D#8, .plain .decA)]

/-- Primary table, the loads and stores (R106). -/
def primaryLoads : List (Byte × Entry) :=
  [(0x06#8, .imm8 .ldBImm), (0x0E#8, .imm8 .ldCImm), (0x16#8, .imm8 .ldDImm), (0x1E#8, .imm8 .ldEImm),
   (0x26#8, .imm8 .ldHImm), (0x2E#8, .imm8 .ldLImm), (0x3E#8, .imm8 .ldAImm), (0x01#8, .imm16 .ldBcImm),
   (0x11#8, .imm16 .ldDeImm), (0x21#8, .imm16 .ldHlImm), (0x31#8, .imm16 .ldSpImm), (0x77#8, .plain .ldHlA),
   (0x7E#8, .plain .ldAHl), (0x22#8, .plain .ldHlIncA), (0x2A#8, .plain .ldAHlInc), (0x32#8, .plain .ldHlDecA),
   (0x3A#8, .plain .ldAHlDec)]

/-- Primary table, operations on A, control transfer, the stack and the prefix (R106). -/
def primaryRest : List (Byte × Entry) :=
  [(0x17#8, .plain .rla), (0xAF#8, .plain .xorA), (0xFE#8, .imm8 .cpImm), (0x18#8, .imm8 .jr),
   (0x20#8, .imm8 .jrNz), (0x28#8, .imm8 .jrZ), (0xC5#8, .plain .pushBc), (0xD5#8, .plain .pushDe),
   (0xE5#8, .plain .pushHl), (0xC1#8, .plain .popBc), (0xD1#8, .plain .popDe), (0xE1#8, .plain .popHl),
   (0xCD#8, .imm16 .call), (0xC9#8, .plain .ret), (0xCB#8, .secondaryTable)]

/-- The primary table: 45 instructions and the prefix (R106). -/
def primaryTable : List (Byte × Entry) := primaryIncDec ++ primaryLoads ++ primaryRest

/-- The entry of an opcode in a table of rows. -/
def lookupEntry (op : Byte) : List (Byte × Entry) → Option Entry
  | [] => none
  | (k, e) :: rest => if k = op then some e else lookupEntry op rest

/-- The primary table's entry of an opcode byte; none for an unregistered opcode (R108). -/
def primary (op : Byte) : Option Entry := lookupEntry op primaryTable

/-- Field `x` of an opcode byte (R102). -/
def fieldX (op : Byte) : BitVec 2 := op.extractLsb' 6 2

/-- Field `y` of an opcode byte (R102). -/
def fieldY (op : Byte) : BitVec 3 := op.extractLsb' 3 3

/-- Field `z` of an opcode byte (R102). -/
def fieldZ (op : Byte) : BitVec 3 := op.extractLsb' 0 3

/-- The 3-bit register code (R103); code 6 is not a register. -/
def reg8Code (i : BitVec 3) : Option Reg8 :=
  match i.toNat with
  | 0 => some .b
  | 1 => some .c
  | 2 => some .d
  | 3 => some .e
  | 4 => some .h
  | 5 => some .l
  | 6 => none
  | _ => some .a

/-- What a registered secondary opcode does: rotate a register left or test one bit of it (R107). -/
inductive CbOp
  | rl (r : Reg8)
  | bit (b : BitVec 3) (r : Reg8)
deriving DecidableEq, Repr

/-- The secondary table (R107): `00 010 zzz` is `RL r`, `01 bbb zzz` is `BIT b,r`, zzz a register; none for an unregistered
opcode (R108). -/
def secondary (op2 : Byte) : Option CbOp :=
  match reg8Code (fieldZ op2) with
  | none => none
  | some r =>
    if fieldX op2 = 1#2 then some (.bit (fieldY op2) r)
    else if fieldX op2 = 0#2 ∧ fieldY op2 = 2#3 then some (.rl r)
    else none

/-- The instruction of a secondary table entry. -/
def CbOp.toInstr : CbOp → Instr
  | .rl r => Instr.rlOf r
  | .bit b r => Instr.bitOf b r

/-- The instruction of the prefix and `op2`: the secondary instruction, or the prefix itself for an unregistered `op2`, whose
meaning raises the DecodeFault (R170, log entry 8). -/
def prefixed (op2 : Byte) : Instr :=
  match secondary op2 with
  | some c => c.toInstr
  | none => .prefixCb op2

/-- Why bytes are no instruction: an opcode byte with no primary entry (R108), or too few bytes. -/
inductive Reject
  | unregistered (op : Byte)
  | truncated
deriving DecidableEq, Repr

/-- The instruction at the head of a list of bytes, with the bytes after it (R100, R101, R105). Total on any bytes. -/
def decode : List Byte → Except Reject (Instr × List Byte)
  | [] => .error .truncated
  | op :: rest =>
    match primary op, rest with
    | none, _ => .error (.unregistered op)
    | some (.plain i), _ => .ok (i, rest)
    | some (.imm8 f), n :: rest' => .ok (f n, rest')
    | some (.imm16 f), lo :: hi :: rest' => .ok (f (joinBytes hi lo), rest')
    | some .secondaryTable, op2 :: rest' => .ok (prefixed op2, rest')
    | some _, _ => .error .truncated

/-- The bytes of an instruction, lowest address first (R101, R105 to R107). -/
def encode : Instr → List Byte
  | .incB => [0x04#8]
  | .incC => [0x0C#8]
  | .incD => [0x14#8]
  | .incE => [0x1C#8]
  | .incH => [0x24#8]
  | .incL => [0x2C#8]
  | .incA => [0x3C#8]
  | .decB => [0x05#8]
  | .decC => [0x0D#8]
  | .decD => [0x15#8]
  | .decE => [0x1D#8]
  | .decH => [0x25#8]
  | .decL => [0x2D#8]
  | .decA => [0x3D#8]
  | .ldBImm n => [0x06#8, n]
  | .ldCImm n => [0x0E#8, n]
  | .ldDImm n => [0x16#8, n]
  | .ldEImm n => [0x1E#8, n]
  | .ldHImm n => [0x26#8, n]
  | .ldLImm n => [0x2E#8, n]
  | .ldAImm n => [0x3E#8, n]
  | .ldBcImm nn => 0x01#8 :: immWord nn
  | .ldDeImm nn => 0x11#8 :: immWord nn
  | .ldHlImm nn => 0x21#8 :: immWord nn
  | .ldSpImm nn => 0x31#8 :: immWord nn
  | .ldHlA => [0x77#8]
  | .ldAHl => [0x7E#8]
  | .ldHlIncA => [0x22#8]
  | .ldAHlInc => [0x2A#8]
  | .ldHlDecA => [0x32#8]
  | .ldAHlDec => [0x3A#8]
  | .rla => [0x17#8]
  | .xorA => [0xAF#8]
  | .cpImm n => [0xFE#8, n]
  | .jr e => [0x18#8, e]
  | .jrNz e => [0x20#8, e]
  | .jrZ e => [0x28#8, e]
  | .pushBc => [0xC5#8]
  | .pushDe => [0xD5#8]
  | .pushHl => [0xE5#8]
  | .popBc => [0xC1#8]
  | .popDe => [0xD1#8]
  | .popHl => [0xE1#8]
  | .call nn => 0xCD#8 :: immWord nn
  | .ret => [0xC9#8]
  | .prefixCb op2 => [0xCB#8, op2]
  | .rlB => [0xCB#8, 0x10#8]
  | .rlC => [0xCB#8, 0x11#8]
  | .rlD => [0xCB#8, 0x12#8]
  | .rlE => [0xCB#8, 0x13#8]
  | .rlH => [0xCB#8, 0x14#8]
  | .rlL => [0xCB#8, 0x15#8]
  | .rlA => [0xCB#8, 0x17#8]
  | .bit0B => [0xCB#8, 0x40#8]
  | .bit0C => [0xCB#8, 0x41#8]
  | .bit0D => [0xCB#8, 0x42#8]
  | .bit0E => [0xCB#8, 0x43#8]
  | .bit0H => [0xCB#8, 0x44#8]
  | .bit0L => [0xCB#8, 0x45#8]
  | .bit0A => [0xCB#8, 0x47#8]
  | .bit1B => [0xCB#8, 0x48#8]
  | .bit1C => [0xCB#8, 0x49#8]
  | .bit1D => [0xCB#8, 0x4A#8]
  | .bit1E => [0xCB#8, 0x4B#8]
  | .bit1H => [0xCB#8, 0x4C#8]
  | .bit1L => [0xCB#8, 0x4D#8]
  | .bit1A => [0xCB#8, 0x4F#8]
  | .bit2B => [0xCB#8, 0x50#8]
  | .bit2C => [0xCB#8, 0x51#8]
  | .bit2D => [0xCB#8, 0x52#8]
  | .bit2E => [0xCB#8, 0x53#8]
  | .bit2H => [0xCB#8, 0x54#8]
  | .bit2L => [0xCB#8, 0x55#8]
  | .bit2A => [0xCB#8, 0x57#8]
  | .bit3B => [0xCB#8, 0x58#8]
  | .bit3C => [0xCB#8, 0x59#8]
  | .bit3D => [0xCB#8, 0x5A#8]
  | .bit3E => [0xCB#8, 0x5B#8]
  | .bit3H => [0xCB#8, 0x5C#8]
  | .bit3L => [0xCB#8, 0x5D#8]
  | .bit3A => [0xCB#8, 0x5F#8]
  | .bit4B => [0xCB#8, 0x60#8]
  | .bit4C => [0xCB#8, 0x61#8]
  | .bit4D => [0xCB#8, 0x62#8]
  | .bit4E => [0xCB#8, 0x63#8]
  | .bit4H => [0xCB#8, 0x64#8]
  | .bit4L => [0xCB#8, 0x65#8]
  | .bit4A => [0xCB#8, 0x67#8]
  | .bit5B => [0xCB#8, 0x68#8]
  | .bit5C => [0xCB#8, 0x69#8]
  | .bit5D => [0xCB#8, 0x6A#8]
  | .bit5E => [0xCB#8, 0x6B#8]
  | .bit5H => [0xCB#8, 0x6C#8]
  | .bit5L => [0xCB#8, 0x6D#8]
  | .bit5A => [0xCB#8, 0x6F#8]
  | .bit6B => [0xCB#8, 0x70#8]
  | .bit6C => [0xCB#8, 0x71#8]
  | .bit6D => [0xCB#8, 0x72#8]
  | .bit6E => [0xCB#8, 0x73#8]
  | .bit6H => [0xCB#8, 0x74#8]
  | .bit6L => [0xCB#8, 0x75#8]
  | .bit6A => [0xCB#8, 0x77#8]
  | .bit7B => [0xCB#8, 0x78#8]
  | .bit7C => [0xCB#8, 0x79#8]
  | .bit7D => [0xCB#8, 0x7A#8]
  | .bit7E => [0xCB#8, 0x7B#8]
  | .bit7H => [0xCB#8, 0x7C#8]
  | .bit7L => [0xCB#8, 0x7D#8]
  | .bit7A => [0xCB#8, 0x7F#8]

/-- The `n` lowest bytes of `w`, the most significant first: how the table writes a row of two bytes, "`byte 0 ++ byte 1` with
byte 0 (0xCB, the byte at the lower address) as the more significant half" (R112, log entry 9). -/
def bytesOfTableWord : Nat → Nat → List Byte
  | 0, _ => []
  | n + 1, w => BitVec.ofNat 8 (w / 256 ^ n) :: bytesOfTableWord n w

/-- The bytes of an instruction whose `nbits` table bits are `w`, as they lie in memory, with operand bytes of zero up to the
longest instruction, three bytes (R101). -/
def tableWordBytes (nbits w : Nat) : List Byte :=
  bytesOfTableWord ((nbits + 7) / 8) w ++ List.replicate (3 - (nbits + 7) / 8) 0#8

/-- The instruction the decoder reads from a word numbered as spec/opcode_table.json numbers it; none where it refuses. -/
def decodeTableWord (nbits w : Nat) : Option Instr :=
  match decode (tableWordBytes nbits w) with
  | .ok (i, _) => some i
  | .error _ => none

end Sys2Proof
end

