-- ==== Sys2Proof/Machine/Operands.lean ====
section
/-! DEFINITION. The operand forms: the 8-bit registers (spec/10_state.md R20), the combined views (R23), the stack pointer and
program counter (R22, R24), the displacement of a relative jump (spec/30_encoding.md R105) and the three uses of HL as an
address (spec/41_loads.md). The immediates d8 and d16 are the arguments of `Instr`. -/
namespace Sys2Proof.Machine

/-- Read an 8-bit register. -/
def State.reg8 (s : State) : Reg8 → Byte
  | .b => s.b
  | .c => s.c
  | .d => s.d
  | .e => s.e
  | .h => s.h
  | .l => s.l
  | .a => s.a

/-- Write an 8-bit register. None is hardwired (R20). -/
def State.setReg8 (s : State) (r : Reg8) (v : Byte) : State :=
  match r with
  | .b => { s with b := v }
  | .c => { s with c := v }
  | .d => { s with d := v }
  | .e => { s with e := v }
  | .h => { s with h := v }
  | .l => { s with l := v }
  | .a => { s with a := v }

/-- The high register of a combined view (R23). -/
def pairHi : Pair → Reg8
  | .bc => .b
  | .de => .d
  | .hl => .h

/-- The low register of a combined view (R23). -/
def pairLo : Pair → Reg8
  | .bc => .c
  | .de => .e
  | .hl => .l

/-- Read a combined view: `(high_reg << 8) | low_reg` (R23). -/
def State.pair (s : State) (p : Pair) : Word := joinBytes (s.reg8 (pairHi p)) (s.reg8 (pairLo p))

/-- Write a combined view: both halves (R23). -/
def State.setPair (s : State) (p : Pair) (v : Word) : State :=
  (s.setReg8 (pairHi p) (hiByte v)).setReg8 (pairLo p) (loByte v)

/-- The flags replaced. -/
def State.setFlags (s : State) (f : Flags) : State := { s with flags := f }

/-- The stack pointer replaced. -/
def State.setSp (s : State) (v : Word) : State := { s with sp := v }

/-- The program counter replaced. -/
def State.setPc (s : State) (v : Word) : State := { s with pc := v }

/-- The program counter moved past an instruction of `n` bytes, modulo 65536 (R22). -/
def State.advance (s : State) (n : Word) : State := s.setPc (s.pc + n)

/-- The displacement byte of a relative jump, sign-extended: `sext_16` (R105). -/
def displacement (e : Byte) : Word := e.signExtend 16

/-- What a load or store through HL does to HL: nothing, add one after, subtract one after. -/
inductive HlUse
  | keep
  | inc
  | dec
deriving DecidableEq, Repr

/-- HL after an access at `addr`, the snapshot of HL the access used (spec/41_loads.md R142 to R147). -/
def State.stepHl (s : State) (use : HlUse) (addr : Word) : State :=
  match use with
  | .keep => s
  | .inc => s.setPair .hl (addr + 1#16)
  | .dec => s.setPair .hl (addr - 1#16)

end Sys2Proof.Machine
end

