-- ==== Sys2Proof/Machine/Sound.lean ====
section
/-! DEFINITION. The sound controller's registers (spec/51_sound_controller.md R200 to R209). It is a register interface only:
nothing steps, and nothing inside the hardware reads it. -/
namespace Sys2Proof.Machine

/-- The duty of a 2-bit selector (R202). -/
def dutyOf (i : BitVec 2) : Duty :=
  match i.toNat with
  | 0 => .eighth
  | 1 => .quarter
  | 2 => .half
  | _ => .threeQuarters

/-- Write of `v` to SND_LEN_DUTY (R202). -/
def Snd.writeLenDuty (d : Snd) (v : Byte) : Snd :=
  { d with pulseA := { d.pulseA with length := 64 - (v.extractLsb' 0 6).toNat, duty := dutyOf (v.extractLsb' 6 2) } }

/-- Write of `v` to SND_ENVELOPE (R203): bits 7 to 4 are dropped, the initial volume is kept. -/
def Snd.writeEnvelope (d : Snd) (v : Byte) : Snd :=
  { d with pulseA := { d.pulseA with envSteps := v.extractLsb' 0 3,
                                     envDir := if v.getLsbD 3 then .increasing else .decreasing } }

/-- Write of `v` to SND_CHANNEL_CTRL (R204). -/
def Snd.writeChannelCtrl (d : Snd) (v : Byte) : Snd :=
  { d with mixHi := { d.mixHi with vin := v.getLsbD 7, volume := v.extractLsb' 4 3 },
           mixLo := { d.mixLo with vin := v.getLsbD 3, volume := v.extractLsb' 0 3 } }

/-- Write of `v` to SND_ROUTING (R205). -/
def Snd.writeRouting (d : Snd) (v : Byte) : Snd :=
  { d with mixLo := { d.mixLo with route := v.extractLsb' 0 4 }, mixHi := { d.mixHi with route := v.extractLsb' 4 4 } }

/-- Write of `v` to SND_MASTER (R206): nothing else is reset. -/
def Snd.writeMaster (d : Snd) (v : Byte) : Snd := { d with enabled := v.getLsbD 7 }

/-- `SoundWrite(addr, v)` for an address of the sound window (R201, R208). -/
def Snd.write (d : Snd) (addr : Word) (v : Byte) : Except FaultRecord Snd :=
  if addr = 0xFF11#16 then .ok (d.writeLenDuty v)
  else if addr = 0xFF12#16 then .ok (d.writeEnvelope v)
  else if addr = 0xFF24#16 then .ok (d.writeChannelCtrl v)
  else if addr = 0xFF25#16 then .ok (d.writeRouting v)
  else if addr = 0xFF26#16 then .ok (d.writeMaster v)
  else .error (.protocolViolation addr .unsupportedRegisterWrite)

end Sys2Proof.Machine
end

