-- ==== Sys2Proof/Machine/Ops.lean ====
section
/-! DEFINITION. The shared operations: memory in its canonical form, the address decoder (spec/20_memory.md R60 to R67), the
stack primitives (spec/43_jumps_stack.md R163, R164), taking a fault (spec/60_exceptions.md R221, R233), what follows a
committed step (spec/50_lcd_controller.md R191), the power-on reset with its images (spec/70_reset_and_hazards.md R252) and the
fetch of an instruction (spec/30_encoding.md R100). -/
namespace Sys2Proof.Machine

/-- What an address no cell lists reads as: the reset contents of all four arrays with empty images (R28, R250, R252). -/
def Memory.unlisted : Byte := 0x00#8

/-- The byte at an address. -/
def Memory.read : Memory → Nat → Byte
  | [], _ => Memory.unlisted
  | (k, w) :: rest, addr => if k = addr then w else Memory.read rest addr

/-- The list with a cell for `addr` in front, unless the byte is what an unlisted address reads as. -/
def Memory.cons (addr : Nat) (v : Byte) (m : Memory) : Memory :=
  if v = Memory.unlisted then m else (addr, v) :: m

/-- The byte at an address replaced; the canonical form is kept. -/
def Memory.write : Memory → Nat → Byte → Memory
  | [], addr, v => Memory.cons addr v []
  | (k, w) :: rest, addr, v =>
    if addr < k then Memory.cons addr v ((k, w) :: rest)
    else if addr = k then Memory.cons addr v rest
    else (k, w) :: Memory.write rest addr v

/-- The canonical form from a lowest admitted address up: addresses strictly rising, no cell equal to what an unlisted
address reads as. -/
def Memory.wfFrom : Nat → Memory → Bool
  | _, [] => true
  | lo, (k, w) :: rest => decide (lo ≤ k) && decide (w ≠ Memory.unlisted) && Memory.wfFrom (k + 1) rest

/-- The canonical form of memory. -/
def Memory.wf (m : Memory) : Bool := Memory.wfFrom 0 m

/-- The rows of the address decoder (R61, R62). -/
inductive Region
  | rom
  | vram
  | wram
  | hram
  | sound
  | lcd
  | unmapped
deriving DecidableEq, Repr

/-- The one row an address falls in (R61, R62, R67). -/
def regionOf (addr : Word) : Region :=
  if addr.toNat ≤ 0x7FFF then .rom
  else if addr.toNat ≤ 0x9FFF then .vram
  else if addr.toNat ≤ 0xBFFF then .unmapped
  else if addr.toNat ≤ 0xDFFF then .wram
  else if addr.toNat ≤ 0xFF0F then .unmapped
  else if addr.toNat ≤ 0xFF3F then .sound
  else if addr.toNat ≤ 0xFF4B then .lcd
  else if addr.toNat ≤ 0xFF7F then .unmapped
  else if addr.toNat ≤ 0xFFFE then .hram
  else .unmapped

/-- `MemRead(addr, 1)` (R61). A read changes no state (R72). -/
def State.memRead (s : State) (addr : Word) : Except FaultRecord Byte :=
  match regionOf addr with
  | .rom | .vram | .wram | .hram => .ok (s.mem.read addr.toNat)
  | .unmapped => .error (.addressFault addr .read)
  | .sound => .error (.protocolViolation addr .unsupportedRegisterRead)
  | .lcd => s.lcd.read addr

/-- `MemWrite(addr, 1, v)` on the working copy `s` (R62). -/
def State.memWrite (s : State) (addr : Word) (v : Byte) : Except FaultRecord State :=
  match regionOf addr with
  | .rom => .error (.writeProtectFault addr v)
  | .vram | .wram | .hram => .ok { s with mem := s.mem.write addr.toNat v }
  | .unmapped => .error (.addressFault addr .write)
  | .sound =>
    match s.snd.write addr v with
    | .ok d => .ok { s with snd := d }
    | .error r => .error r
  | .lcd =>
    match s.lcd.write addr v with
    | .ok l => .ok { s with lcd := l }
    | .error r => .error r

/-- `push16(v)` on the working copy `s` (R163): the high byte at SP - 1, then the low byte at SP - 2. -/
def State.push16 (s : State) (v : Word) : Except FaultRecord State :=
  match (s.setSp (s.sp - 1#16)).memWrite (s.sp - 1#16) (hiByte v) with
  | .error r => .error r
  | .ok t => (t.setSp (t.sp - 1#16)).memWrite (t.sp - 1#16) (loByte v)

/-- `pop16()` on the working copy `s` (R164): the low byte at SP, then the high byte at SP + 1. -/
def State.pop16 (s : State) : Except FaultRecord (Word × State) :=
  match s.memRead s.sp with
  | .error r => .error r
  | .ok lo =>
    match s.memRead (s.sp + 1#16) with
    | .error r => .error r
    | .ok hi => .ok (joinBytes hi lo, s.setSp (s.sp + 2#16))

/-- `raise`: taking a fault. The working copy is thrown away and the latch is set; no register, PC included, and no memory
changes (spec/00_scope.md R9, R221, R233). There is no return from a fault (R235): only reset clears the latch. -/
def State.raise (s : State) (r : FaultRecord) : State := { s with fault := some r }

/-- An instruction begun in `s` either commits its working copy or raises (R9). -/
def commit (s : State) (r : Except FaultRecord State) : Result :=
  match r with
  | .ok t => .next t
  | .error f => .next (s.raise f)

/-- What follows a CPU step that left `t`: after a committed step it is counted and the LCD driver runs the events the
schedule gives for it (R191); after a step that raised, nothing (R27). -/
def State.settle (t : State) : State :=
  match t.fault with
  | some _ => t
  | none => { t with lcd := t.lcd.run Config.totalLines (Config.lcdSchedule (t.steps + 1)), steps := t.steps + 1 }

/-- The instruction at PC, its bytes fetched one at a time in ascending order by ordinary reads (R100, R77). The fault is that
of the first byte that cannot be read, or DecodeFault for an unregistered primary opcode, before any operand byte is read
(R222, R226, R232). The bytes are those `decode` reads. DESIGN CHOICE, unsafe: a `CALL` at 0xFFFC is fetched from 0xFFFC,
0xFFFD and 0xFFFE, as R73 and the pseudocode of R167 have it, and so meets no fault of an operand fetch at 0xFFFF, which the
corner case of R167 says it does (log entry 13). -/
def State.fetch (s : State) : Except FaultRecord Instr :=
  match s.memRead s.pc with
  | .error r => .error r
  | .ok op =>
    match primary op with
    | none => .error (.decodeFault .primary op s.pc)
    | some (.plain i) => .ok i
    | some (.imm8 f) =>
      match s.memRead (s.pc + 1#16) with
      | .error r => .error r
      | .ok n => .ok (f n)
    | some (.imm16 f) =>
      match s.memRead (s.pc + 1#16) with
      | .error r => .error r
      | .ok lo =>
        match s.memRead (s.pc + 2#16) with
        | .error r => .error r
        | .ok hi => .ok (f (joinBytes hi lo))
    | some .secondaryTable =>
      match s.memRead (s.pc + 1#16) with
      | .error r => .error r
      | .ok op2 => .ok (prefixed op2)

/-- `n` bytes read one after the other from `addr` up. -/
def State.readBytes (s : State) : Nat → Word → Except FaultRecord (List Byte)
  | 0, _ => .ok []
  | n + 1, addr =>
    match s.memRead addr with
    | .error r => .error r
    | .ok v =>
      match State.readBytes s n (addr + 1#16) with
      | .error r => .error r
      | .ok vs => .ok (v :: vs)

/-- The cartridge image with the boot image laid over it (R252). -/
def overlayImages : List Byte → List Byte → List Byte
  | [], cart => cart
  | v :: boot, [] => v :: overlayImages boot []
  | v :: boot, _ :: cart => v :: overlayImages boot cart

/-- The cells of bytes laid from an address up. -/
def imageCells : Nat → List Byte → Memory
  | _, [] => []
  | addr, v :: rest => Memory.cons addr v (imageCells (addr + 1) rest)

/-- Power-on reset with `A_RESET = aReset` and the two images the host supplies (R250, R252). An image longer than 0x8000
bytes is refused (R252). `State.reset` is this with the configured `A_RESET` and both images empty. -/
def State.powerOn (aReset : Byte) (boot cart : List Byte) : Option State :=
  if boot.length ≤ 0x8000 ∧ cart.length ≤ 0x8000 then
    some { State.reset with a := aReset, mem := imageCells 0 (overlayImages boot cart) }
  else none

/-- Bytes stored from `addr` up by the host, where an array holds the address: how a program comes into memory from outside
the machine (log entry 5). -/
def State.hostStore (s : State) (addr : Word) : List Byte → State
  | [] => s
  | v :: rest =>
    match regionOf addr with
    | .rom | .vram | .wram | .hram => State.hostStore { s with mem := s.mem.write addr.toNat v } (addr + 1#16) rest
    | .sound | .lcd | .unmapped => State.hostStore s (addr + 1#16) rest

end Sys2Proof.Machine
end

