-- ==== Sys2Proof/Machine/Accumulator.lean ====
section
/-! DEFINITION. Operations on A (spec/42_rotate_xor_compare.md), and the rotation shared with the secondary table. -/
namespace Sys2Proof.Machine

/-- Rotate a register left through the carry flag, in an instruction of `len` bytes (R150; spec/44_cb_prefixed.md R171). -/
def rotateReg (r : Reg8) (len : Word) (s : State) : State :=
  ((s.setReg8 r (rotL (s.reg8 r) s.flags.c)).setFlags (rotLFlags (s.reg8 r) s.flags.c)).advance len

/-- `A xor A`, "= 0x00 for every A", its flags, PC + 1 (R151). -/
def xorSelf (s : State) : State := ((s.setReg8 .a 0x00#8).setFlags xorSelfFlags).advance 1#16

/-- Compare A with an immediate: only the flags change, PC + 2 (R152). -/
def compareImm (n : Byte) (s : State) : State := (s.setFlags (compareFlags s.a n)).advance 2#16

/-- `RLA` (R150). -/
def execRla (s : State) : Result := .next (rotateReg .a 1#16 s)

/-- `XOR A` (R151). -/
def execXorA (s : State) : Result := .next (xorSelf s)

/-- `CP d8` (R152). -/
def execCpImm (n : Byte) (s : State) : Result := .next (compareImm n s)

end Sys2Proof.Machine
end

