-- ==== Sys2Proof/Machine/Control.lean ====
section
/-! DEFINITION. Relative jumps, the stack, call and return (spec/43_jumps_stack.md). None changes a flag. -/
namespace Sys2Proof.Machine

/-- A relative jump: PC past the displacement byte, plus the displacement if the jump is taken (R160 to R162). -/
def relJump (taken : Bool) (e : Byte) (s : State) : State :=
  if taken then s.setPc (s.pc + 2#16 + displacement e) else s.setPc (s.pc + 2#16)

/-- Push a combined view, PC + 1 (R165). -/
def pushPair (p : Pair) (s : State) : Except FaultRecord State :=
  match s.push16 (s.pair p) with
  | .error r => .error r
  | .ok t => .ok (t.advance 1#16)

/-- Pop into a combined view, PC + 1 (R166). -/
def popPair (p : Pair) (s : State) : Except FaultRecord State :=
  match s.pop16 with
  | .error r => .error r
  | .ok (v, t) => .ok ((t.setPair p v).advance 1#16)

/-- Push the address after the call, modulo 65536, then jump (R167). For a call at 0xFFFC that address is 0xFFFF: DESIGN CHOICE,
unsafe, the pseudocode against the corner case of R167 (log entry 13). -/
def callTo (nn : Word) (s : State) : Except FaultRecord State :=
  match s.push16 (s.pc + 3#16) with
  | .error r => .error r
  | .ok t => .ok (t.setPc nn)

/-- Pop the program counter (R168). -/
def returnToCaller (s : State) : Except FaultRecord State :=
  match s.pop16 with
  | .error r => .error r
  | .ok (v, t) => .ok (t.setPc v)

/-- `JR e` (R160). -/
def execJr (e : Byte) (s : State) : Result := .next (relJump true e s)

/-- `JR NZ,e` (R161). -/
def execJrNz (e : Byte) (s : State) : Result := .next (relJump (!s.flags.z) e s)

/-- `JR Z,e` (R162). -/
def execJrZ (e : Byte) (s : State) : Result := .next (relJump s.flags.z e s)

/-- `PUSH BC` (R165). -/
def execPushBc (s : State) : Result := commit s (pushPair .bc s)

/-- `PUSH DE` (R165). -/
def execPushDe (s : State) : Result := commit s (pushPair .de s)

/-- `PUSH HL` (R165). -/
def execPushHl (s : State) : Result := commit s (pushPair .hl s)

/-- `POP BC` (R166). -/
def execPopBc (s : State) : Result := commit s (popPair .bc s)

/-- `POP DE` (R166). -/
def execPopDe (s : State) : Result := commit s (popPair .de s)

/-- `POP HL` (R166). -/
def execPopHl (s : State) : Result := commit s (popPair .hl s)

/-- `CALL a16` (R167; log entry 13 for a call at 0xFFFC). -/
def execCall (nn : Word) (s : State) : Result := commit s (callTo nn s)

/-- `RET` (R168). -/
def execRet (s : State) : Result := commit s (returnToCaller s)

end Sys2Proof.Machine
end

