-- ==== Sys2Proof/Machine/IncDec.lean ====
section
/-! DEFINITION. 8-bit increment and decrement (spec/40_inc_dec.md). -/
namespace Sys2Proof.Machine

/-- Increment a register: its value, the flags, PC + 1 (R130). -/
def incReg (r : Reg8) (s : State) : State :=
  ((s.setReg8 r (s.reg8 r + 1#8)).setFlags (incFlags (s.reg8 r) s.flags)).advance 1#16

/-- Decrement a register: its value, the flags, PC + 1 (R131). -/
def decReg (r : Reg8) (s : State) : State :=
  ((s.setReg8 r (s.reg8 r - 1#8)).setFlags (decFlags (s.reg8 r) s.flags)).advance 1#16

/-- `INC B` (R130). -/
def execIncB (s : State) : Result := .next (incReg .b s)

/-- `INC C` (R130). -/
def execIncC (s : State) : Result := .next (incReg .c s)

/-- `INC D` (R130). -/
def execIncD (s : State) : Result := .next (incReg .d s)

/-- `INC E` (R130). -/
def execIncE (s : State) : Result := .next (incReg .e s)

/-- `INC H` (R130). -/
def execIncH (s : State) : Result := .next (incReg .h s)

/-- `INC L` (R130). -/
def execIncL (s : State) : Result := .next (incReg .l s)

/-- `INC A` (R130). -/
def execIncA (s : State) : Result := .next (incReg .a s)

/-- `DEC B` (R131). -/
def execDecB (s : State) : Result := .next (decReg .b s)

/-- `DEC C` (R131). -/
def execDecC (s : State) : Result := .next (decReg .c s)

/-- `DEC D` (R131). -/
def execDecD (s : State) : Result := .next (decReg .d s)

/-- `DEC E` (R131). -/
def execDecE (s : State) : Result := .next (decReg .e s)

/-- `DEC H` (R131). -/
def execDecH (s : State) : Result := .next (decReg .h s)

/-- `DEC L` (R131). -/
def execDecL (s : State) : Result := .next (decReg .l s)

/-- `DEC A` (R131). -/
def execDecA (s : State) : Result := .next (decReg .a s)

end Sys2Proof.Machine
end

