-- ==== Sys2Proof/Machine/Loads.lean ====
section
/-! DEFINITION. Loads and stores (spec/41_loads.md). None changes a flag. -/
namespace Sys2Proof.Machine

/-- Load an immediate byte into a register, PC + 2 (R140). -/
def loadImm8 (r : Reg8) (n : Byte) (s : State) : State := (s.setReg8 r n).advance 2#16

/-- Load an immediate word into a combined view, PC + 3 (R141). -/
def loadImmPair (p : Pair) (nn : Word) (s : State) : State := (s.setPair p nn).advance 3#16

/-- Load an immediate word into the stack pointer, PC + 3 (R141). -/
def loadImmSp (nn : Word) (s : State) : State := (s.setSp nn).advance 3#16

/-- Store A at the address in HL, then the change of HL, PC + 1 (R142, R144, R146; spec/90_conflicts.md C5). -/
def storeAtHl (use : HlUse) (s : State) : Except FaultRecord State :=
  match s.memWrite (s.pair .hl) s.a with
  | .error r => .error r
  | .ok t => .ok ((t.stepHl use (s.pair .hl)).advance 1#16)

/-- Load A from the address in HL, then the change of HL, PC + 1 (R143, R145, R147). -/
def loadFromHl (use : HlUse) (s : State) : Except FaultRecord State :=
  match s.memRead (s.pair .hl) with
  | .error r => .error r
  | .ok v => .ok (((s.setReg8 .a v).stepHl use (s.pair .hl)).advance 1#16)

/-- `LD B,d8` (R140). -/
def execLdBImm (n : Byte) (s : State) : Result := .next (loadImm8 .b n s)

/-- `LD C,d8` (R140). -/
def execLdCImm (n : Byte) (s : State) : Result := .next (loadImm8 .c n s)

/-- `LD D,d8` (R140). -/
def execLdDImm (n : Byte) (s : State) : Result := .next (loadImm8 .d n s)

/-- `LD E,d8` (R140). -/
def execLdEImm (n : Byte) (s : State) : Result := .next (loadImm8 .e n s)

/-- `LD H,d8` (R140). -/
def execLdHImm (n : Byte) (s : State) : Result := .next (loadImm8 .h n s)

/-- `LD L,d8` (R140). -/
def execLdLImm (n : Byte) (s : State) : Result := .next (loadImm8 .l n s)

/-- `LD A,d8` (R140). -/
def execLdAImm (n : Byte) (s : State) : Result := .next (loadImm8 .a n s)

/-- `LD BC,d16` (R141). -/
def execLdBcImm (nn : Word) (s : State) : Result := .next (loadImmPair .bc nn s)

/-- `LD DE,d16` (R141). -/
def execLdDeImm (nn : Word) (s : State) : Result := .next (loadImmPair .de nn s)

/-- `LD HL,d16` (R141). -/
def execLdHlImm (nn : Word) (s : State) : Result := .next (loadImmPair .hl nn s)

/-- `LD SP,d16` (R141). -/
def execLdSpImm (nn : Word) (s : State) : Result := .next (loadImmSp nn s)

/-- `LD (HL),A` (R142). -/
def execLdHlA (s : State) : Result := commit s (storeAtHl .keep s)

/-- `LD A,(HL)` (R143). -/
def execLdAHl (s : State) : Result := commit s (loadFromHl .keep s)

/-- `LD (HL+),A` (R144). -/
def execLdHlIncA (s : State) : Result := commit s (storeAtHl .inc s)

/-- `LD A,(HL+)` (R145). -/
def execLdAHlInc (s : State) : Result := commit s (loadFromHl .inc s)

/-- `LD (HL-),A` (R146). -/
def execLdHlDecA (s : State) : Result := commit s (storeAtHl .dec s)

/-- `LD A,(HL-)` (R147). -/
def execLdAHlDec (s : State) : Result := commit s (loadFromHl .dec s)

end Sys2Proof.Machine
end

