-- ==== Sys2Proof/Machine/Secondary.lean ====
section
/-! DEFINITION. The secondary table: the prefix, `RL r`, `BIT b,r` (spec/44_cb_prefixed.md). -/
namespace Sys2Proof.Machine

/-- Test a bit of a register: only the flags change, PC + 2 (R172). -/
def testBit (b : BitVec 3) (r : Reg8) (s : State) : State := (s.setFlags (bitFlags b (s.reg8 r) s.flags)).advance 2#16

/-- What the prefix does with `op2`: dispatch it in the secondary table, or raise DecodeFault with the address of the 0xCB
byte (R170). -/
def runSecondary (op2 : Byte) (s : State) : Result :=
  match secondary op2 with
  | some (.rl r) => .next (rotateReg r 2#16 s)
  | some (.bit b r) => .next (testBit b r s)
  | none => .next (s.raise (.decodeFault .secondary op2 s.pc))

/-- `PREFIX CB` (R170). -/
def execPrefixCb (op2 : Byte) (s : State) : Result := runSecondary op2 s

/-- `RL B` (R171). -/
def execRlB (s : State) : Result := .next (rotateReg .b 2#16 s)

/-- `RL C` (R171). -/
def execRlC (s : State) : Result := .next (rotateReg .c 2#16 s)

/-- `RL D` (R171). -/
def execRlD (s : State) : Result := .next (rotateReg .d 2#16 s)

/-- `RL E` (R171). -/
def execRlE (s : State) : Result := .next (rotateReg .e 2#16 s)

/-- `RL H` (R171). -/
def execRlH (s : State) : Result := .next (rotateReg .h 2#16 s)

/-- `RL L` (R171). -/
def execRlL (s : State) : Result := .next (rotateReg .l 2#16 s)

/-- `RL A` (R171). -/
def execRlA (s : State) : Result := .next (rotateReg .a 2#16 s)

/-- `BIT 0,B` (R172). -/
def execBit0B (s : State) : Result := .next (testBit 0#3 .b s)

/-- `BIT 0,C` (R172). -/
def execBit0C (s : State) : Result := .next (testBit 0#3 .c s)

/-- `BIT 0,D` (R172). -/
def execBit0D (s : State) : Result := .next (testBit 0#3 .d s)

/-- `BIT 0,E` (R172). -/
def execBit0E (s : State) : Result := .next (testBit 0#3 .e s)

/-- `BIT 0,H` (R172). -/
def execBit0H (s : State) : Result := .next (testBit 0#3 .h s)

/-- `BIT 0,L` (R172). -/
def execBit0L (s : State) : Result := .next (testBit 0#3 .l s)

/-- `BIT 0,A` (R172). -/
def execBit0A (s : State) : Result := .next (testBit 0#3 .a s)

/-- `BIT 1,B` (R172). -/
def execBit1B (s : State) : Result := .next (testBit 1#3 .b s)

/-- `BIT 1,C` (R172). -/
def execBit1C (s : State) : Result := .next (testBit 1#3 .c s)

/-- `BIT 1,D` (R172). -/
def execBit1D (s : State) : Result := .next (testBit 1#3 .d s)

/-- `BIT 1,E` (R172). -/
def execBit1E (s : State) : Result := .next (testBit 1#3 .e s)

/-- `BIT 1,H` (R172). -/
def execBit1H (s : State) : Result := .next (testBit 1#3 .h s)

/-- `BIT 1,L` (R172). -/
def execBit1L (s : State) : Result := .next (testBit 1#3 .l s)

/-- `BIT 1,A` (R172). -/
def execBit1A (s : State) : Result := .next (testBit 1#3 .a s)

/-- `BIT 2,B` (R172). -/
def execBit2B (s : State) : Result := .next (testBit 2#3 .b s)

/-- `BIT 2,C` (R172). -/
def execBit2C (s : State) : Result := .next (testBit 2#3 .c s)

/-- `BIT 2,D` (R172). -/
def execBit2D (s : State) : Result := .next (testBit 2#3 .d s)

/-- `BIT 2,E` (R172). -/
def execBit2E (s : State) : Result := .next (testBit 2#3 .e s)

/-- `BIT 2,H` (R172). -/
def execBit2H (s : State) : Result := .next (testBit 2#3 .h s)

/-- `BIT 2,L` (R172). -/
def execBit2L (s : State) : Result := .next (testBit 2#3 .l s)

/-- `BIT 2,A` (R172). -/
def execBit2A (s : State) : Result := .next (testBit 2#3 .a s)

/-- `BIT 3,B` (R172). -/
def execBit3B (s : State) : Result := .next (testBit 3#3 .b s)

/-- `BIT 3,C` (R172). -/
def execBit3C (s : State) : Result := .next (testBit 3#3 .c s)

/-- `BIT 3,D` (R172). -/
def execBit3D (s : State) : Result := .next (testBit 3#3 .d s)

/-- `BIT 3,E` (R172). -/
def execBit3E (s : State) : Result := .next (testBit 3#3 .e s)

/-- `BIT 3,H` (R172). -/
def execBit3H (s : State) : Result := .next (testBit 3#3 .h s)

/-- `BIT 3,L` (R172). -/
def execBit3L (s : State) : Result := .next (testBit 3#3 .l s)

/-- `BIT 3,A` (R172). -/
def execBit3A (s : State) : Result := .next (testBit 3#3 .a s)

/-- `BIT 4,B` (R172). -/
def execBit4B (s : State) : Result := .next (testBit 4#3 .b s)

/-- `BIT 4,C` (R172). -/
def execBit4C (s : State) : Result := .next (testBit 4#3 .c s)

/-- `BIT 4,D` (R172). -/
def execBit4D (s : State) : Result := .next (testBit 4#3 .d s)

/-- `BIT 4,E` (R172). -/
def execBit4E (s : State) : Result := .next (testBit 4#3 .e s)

/-- `BIT 4,H` (R172). -/
def execBit4H (s : State) : Result := .next (testBit 4#3 .h s)

/-- `BIT 4,L` (R172). -/
def execBit4L (s : State) : Result := .next (testBit 4#3 .l s)

/-- `BIT 4,A` (R172). -/
def execBit4A (s : State) : Result := .next (testBit 4#3 .a s)

/-- `BIT 5,B` (R172). -/
def execBit5B (s : State) : Result := .next (testBit 5#3 .b s)

/-- `BIT 5,C` (R172). -/
def execBit5C (s : State) : Result := .next (testBit 5#3 .c s)

/-- `BIT 5,D` (R172). -/
def execBit5D (s : State) : Result := .next (testBit 5#3 .d s)

/-- `BIT 5,E` (R172). -/
def execBit5E (s : State) : Result := .next (testBit 5#3 .e s)

/-- `BIT 5,H` (R172). -/
def execBit5H (s : State) : Result := .next (testBit 5#3 .h s)

/-- `BIT 5,L` (R172). -/
def execBit5L (s : State) : Result := .next (testBit 5#3 .l s)

/-- `BIT 5,A` (R172). -/
def execBit5A (s : State) : Result := .next (testBit 5#3 .a s)

/-- `BIT 6,B` (R172). -/
def execBit6B (s : State) : Result := .next (testBit 6#3 .b s)

/-- `BIT 6,C` (R172). -/
def execBit6C (s : State) : Result := .next (testBit 6#3 .c s)

/-- `BIT 6,D` (R172). -/
def execBit6D (s : State) : Result := .next (testBit 6#3 .d s)

/-- `BIT 6,E` (R172). -/
def execBit6E (s : State) : Result := .next (testBit 6#3 .e s)

/-- `BIT 6,H` (R172). -/
def execBit6H (s : State) : Result := .next (testBit 6#3 .h s)

/-- `BIT 6,L` (R172). -/
def execBit6L (s : State) : Result := .next (testBit 6#3 .l s)

/-- `BIT 6,A` (R172). -/
def execBit6A (s : State) : Result := .next (testBit 6#3 .a s)

/-- `BIT 7,B` (R172). -/
def execBit7B (s : State) : Result := .next (testBit 7#3 .b s)

/-- `BIT 7,C` (R172). -/
def execBit7C (s : State) : Result := .next (testBit 7#3 .c s)

/-- `BIT 7,D` (R172). -/
def execBit7D (s : State) : Result := .next (testBit 7#3 .d s)

/-- `BIT 7,E` (R172). -/
def execBit7E (s : State) : Result := .next (testBit 7#3 .e s)

/-- `BIT 7,H` (R172). -/
def execBit7H (s : State) : Result := .next (testBit 7#3 .h s)

/-- `BIT 7,L` (R172). -/
def execBit7L (s : State) : Result := .next (testBit 7#3 .l s)

/-- `BIT 7,A` (R172). -/
def execBit7A (s : State) : Result := .next (testBit 7#3 .a s)

end Sys2Proof.Machine
end

