-- ==== Sys2Proof/Machine/Dispatch.lean ====
section
/-! DEFINITION. The dispatch: one arm per instruction, each one direct call of its meaning. A meaning starts in the state before
the step, with PC at the instruction's first byte, and moves PC itself (log entry 10). -/
namespace Sys2Proof.Machine

def exec (i : Instr) (s : State) : Host.Outcome State Fault Refusal :=
  match i with
  | .incB => Sys2Proof.Machine.execIncB s
  | .incC => Sys2Proof.Machine.execIncC s
  | .incD => Sys2Proof.Machine.execIncD s
  | .incE => Sys2Proof.Machine.execIncE s
  | .incH => Sys2Proof.Machine.execIncH s
  | .incL => Sys2Proof.Machine.execIncL s
  | .incA => Sys2Proof.Machine.execIncA s
  | .decB => Sys2Proof.Machine.execDecB s
  | .decC => Sys2Proof.Machine.execDecC s
  | .decD => Sys2Proof.Machine.execDecD s
  | .decE => Sys2Proof.Machine.execDecE s
  | .decH => Sys2Proof.Machine.execDecH s
  | .decL => Sys2Proof.Machine.execDecL s
  | .decA => Sys2Proof.Machine.execDecA s
  | .ldBImm n => Sys2Proof.Machine.execLdBImm n s
  | .ldCImm n => Sys2Proof.Machine.execLdCImm n s
  | .ldDImm n => Sys2Proof.Machine.execLdDImm n s
  | .ldEImm n => Sys2Proof.Machine.execLdEImm n s
  | .ldHImm n => Sys2Proof.Machine.execLdHImm n s
  | .ldLImm n => Sys2Proof.Machine.execLdLImm n s
  | .ldAImm n => Sys2Proof.Machine.execLdAImm n s
  | .ldBcImm nn => Sys2Proof.Machine.execLdBcImm nn s
  | .ldDeImm nn => Sys2Proof.Machine.execLdDeImm nn s
  | .ldHlImm nn => Sys2Proof.Machine.execLdHlImm nn s
  | .ldSpImm nn => Sys2Proof.Machine.execLdSpImm nn s
  | .ldHlA => Sys2Proof.Machine.execLdHlA s
  | .ldAHl => Sys2Proof.Machine.execLdAHl s
  | .ldHlIncA => Sys2Proof.Machine.execLdHlIncA s
  | .ldAHlInc => Sys2Proof.Machine.execLdAHlInc s
  | .ldHlDecA => Sys2Proof.Machine.execLdHlDecA s
  | .ldAHlDec => Sys2Proof.Machine.execLdAHlDec s
  | .rla => Sys2Proof.Machine.execRla s
  | .xorA => Sys2Proof.Machine.execXorA s
  | .cpImm n => Sys2Proof.Machine.execCpImm n s
  | .jr e => Sys2Proof.Machine.execJr e s
  | .jrNz e => Sys2Proof.Machine.execJrNz e s
  | .jrZ e => Sys2Proof.Machine.execJrZ e s
  | .pushBc => Sys2Proof.Machine.execPushBc s
  | .pushDe => Sys2Proof.Machine.execPushDe s
  | .pushHl => Sys2Proof.Machine.execPushHl s
  | .popBc => Sys2Proof.Machine.execPopBc s
  | .popDe => Sys2Proof.Machine.execPopDe s
  | .popHl => Sys2Proof.Machine.execPopHl s
  | .call nn => Sys2Proof.Machine.execCall nn s
  | .ret => Sys2Proof.Machine.execRet s
  | .prefixCb op2 => Sys2Proof.Machine.execPrefixCb op2 s
  | .rlB => Sys2Proof.Machine.execRlB s
  | .rlC => Sys2Proof.Machine.execRlC s
  | .rlD => Sys2Proof.Machine.execRlD s
  | .rlE => Sys2Proof.Machine.execRlE s
  | .rlH => Sys2Proof.Machine.execRlH s
  | .rlL => Sys2Proof.Machine.execRlL s
  | .rlA => Sys2Proof.Machine.execRlA s
  | .bit0B => Sys2Proof.Machine.execBit0B s
  | .bit0C => Sys2Proof.Machine.execBit0C s
  | .bit0D => Sys2Proof.Machine.execBit0D s
  | .bit0E => Sys2Proof.Machine.execBit0E s
  | .bit0H => Sys2Proof.Machine.execBit0H s
  | .bit0L => Sys2Proof.Machine.execBit0L s
  | .bit0A => Sys2Proof.Machine.execBit0A s
  | .bit1B => Sys2Proof.Machine.execBit1B s
  | .bit1C => Sys2Proof.Machine.execBit1C s
  | .bit1D => Sys2Proof.Machine.execBit1D s
  | .bit1E => Sys2Proof.Machine.execBit1E s
  | .bit1H => Sys2Proof.Machine.execBit1H s
  | .bit1L => Sys2Proof.Machine.execBit1L s
  | .bit1A => Sys2Proof.Machine.execBit1A s
  | .bit2B => Sys2Proof.Machine.execBit2B s
  | .bit2C => Sys2Proof.Machine.execBit2C s
  | .bit2D => Sys2Proof.Machine.execBit2D s
  | .bit2E => Sys2Proof.Machine.execBit2E s
  | .bit2H => Sys2Proof.Machine.execBit2H s
  | .bit2L => Sys2Proof.Machine.execBit2L s
  | .bit2A => Sys2Proof.Machine.execBit2A s
  | .bit3B => Sys2Proof.Machine.execBit3B s
  | .bit3C => Sys2Proof.Machine.execBit3C s
  | .bit3D => Sys2Proof.Machine.execBit3D s
  | .bit3E => Sys2Proof.Machine.execBit3E s
  | .bit3H => Sys2Proof.Machine.execBit3H s
  | .bit3L => Sys2Proof.Machine.execBit3L s
  | .bit3A => Sys2Proof.Machine.execBit3A s
  | .bit4B => Sys2Proof.Machine.execBit4B s
  | .bit4C => Sys2Proof.Machine.execBit4C s
  | .bit4D => Sys2Proof.Machine.execBit4D s
  | .bit4E => Sys2Proof.Machine.execBit4E s
  | .bit4H => Sys2Proof.Machine.execBit4H s
  | .bit4L => Sys2Proof.Machine.execBit4L s
  | .bit4A => Sys2Proof.Machine.execBit4A s
  | .bit5B => Sys2Proof.Machine.execBit5B s
  | .bit5C => Sys2Proof.Machine.execBit5C s
  | .bit5D => Sys2Proof.Machine.execBit5D s
  | .bit5E => Sys2Proof.Machine.execBit5E s
  | .bit5H => Sys2Proof.Machine.execBit5H s
  | .bit5L => Sys2Proof.Machine.execBit5L s
  | .bit5A => Sys2Proof.Machine.execBit5A s
  | .bit6B => Sys2Proof.Machine.execBit6B s
  | .bit6C => Sys2Proof.Machine.execBit6C s
  | .bit6D => Sys2Proof.Machine.execBit6D s
  | .bit6E => Sys2Proof.Machine.execBit6E s
  | .bit6H => Sys2Proof.Machine.execBit6H s
  | .bit6L => Sys2Proof.Machine.execBit6L s
  | .bit6A => Sys2Proof.Machine.execBit6A s
  | .bit7B => Sys2Proof.Machine.execBit7B s
  | .bit7C => Sys2Proof.Machine.execBit7C s
  | .bit7D => Sys2Proof.Machine.execBit7D s
  | .bit7E => Sys2Proof.Machine.execBit7E s
  | .bit7H => Sys2Proof.Machine.execBit7H s
  | .bit7L => Sys2Proof.Machine.execBit7L s
  | .bit7A => Sys2Proof.Machine.execBit7A s

end Sys2Proof.Machine
end

