-- ==== Sys2Proof/Machine/Extensions.lean ====
section
/-! DEFINITION. The open parameter `EXT_HANDLERS` (spec/00_scope.md R6, spec/30_encoding.md R109): a table of further opcode
handlers, an argument of `stepWith`. The spec gives no semantics to any entry, so an entry is any program over the operations
the spec gives the CPU core: fetching a byte, the registers, one-byte accesses through the address decoder, raising a fault
(log entry 4). The step itself, with that table as its argument, stands here. -/
namespace Sys2Proof.Machine

/-- A handler: which operation comes next, given what the earlier ones read. -/
inductive Handler
  | done
  | fault (r : FaultRecord)
  | fetch (k : Byte → Handler)
  | readReg (r : Reg8) (k : Byte → Handler)
  | writeReg (r : Reg8) (v : Byte) (k : Handler)
  | readFlags (k : Flags → Handler)
  | writeFlags (f : Flags) (k : Handler)
  | readSp (k : Word → Handler)
  | writeSp (v : Word) (k : Handler)
  | readPc (k : Word → Handler)
  | writePc (v : Word) (k : Handler)
  | load (addr : Word) (k : Byte → Handler)
  | store (addr : Word) (v : Byte) (k : Handler)

/-- A handler run on the working copy: the copy it leaves, or the first fault it meets (R9, R232). -/
def Handler.run : Handler → State → Except FaultRecord State
  | .done, s => .ok s
  | .fault r, _ => .error r
  | .fetch k, s =>
    match s.memRead s.pc with
    | .error r => .error r
    | .ok v => (k v).run (s.advance 1#16)
  | .readReg r k, s => (k (s.reg8 r)).run s
  | .writeReg r v k, s => k.run (s.setReg8 r v)
  | .readFlags k, s => (k s.flags).run s
  | .writeFlags f k, s => k.run (s.setFlags f)
  | .readSp k, s => (k s.sp).run s
  | .writeSp v k, s => k.run (s.setSp v)
  | .readPc k, s => (k s.pc).run s
  | .writePc v k, s => k.run (s.setPc v)
  | .load addr k, s =>
    match s.memRead addr with
    | .error r => .error r
    | .ok v => (k v).run s
  | .store addr v k, s =>
    match s.memWrite addr v with
    | .error r => .error r
    | .ok t => k.run t

/-- `EXT_HANDLERS`: further entries of the primary and of the secondary table (R6, R109). -/
structure ExtHandlers where
  primary : Byte → Option Handler
  secondary : Byte → Option Handler

/-- The default of `EXT_HANDLERS`, the empty table (R6). -/
def ExtHandlers.empty : ExtHandlers := { primary := fun _ => none, secondary := fun _ => none }

/-- What a further entry does with the instruction at PC, if there is one: its opcode is in neither table of the spec (R106,
R107) and in this one. The entry runs with PC past the opcode bytes, as every rule does in R100. None where the spec's own
dispatch, or its fault, applies. -/
def State.runExtension (s : State) (ext : ExtHandlers) : Option Result :=
  match s.memRead s.pc with
  | .error _ => none
  | .ok op =>
    match primary op with
    | none => (ext.primary op).map fun h => commit s (h.run (s.advance 1#16))
    | some .secondaryTable =>
      match s.memRead (s.pc + 1#16) with
      | .error _ => none
      | .ok op2 =>
        match secondary op2 with
        | none => (ext.secondary op2).map fun h => commit s (h.run (s.advance 2#16))
        | some _ => none
    | some _ => none

/-- What a step does with the instruction at PC: a further entry of `EXT_HANDLERS` if one applies, else the spec's tables
(R100, R109). -/
def State.dispatch (s : State) (ext : ExtHandlers) : Result :=
  match s.runExtension ext with
  | some r => r
  | none =>
    match s.fetch with
    | .error r => .next (s.raise r)
    | .ok i => exec i s

/-- The step with the open parameter `EXT_HANDLERS` as an argument (R6, R100). With the fault latch set there is none
(spec/10_state.md R27). -/
def stepWith (ext : ExtHandlers) (s : State) : Result :=
  match s.fault with
  | some r => .fault (.halted r)
  | none =>
    match s.dispatch ext with
    | .next t => .next t.settle
    | .fault f => .fault f
    | .refused r => .refused r

end Sys2Proof.Machine
end

