-- ==== Sys2Proof/Machine/Step.lean ====
section
/-! DEFINITION. One step of the machine: a CPU step and the LCD events that follow it (spec/30_encoding.md R100,
spec/50_lcd_controller.md R191). -/
namespace Sys2Proof.Machine

/-- The step with `EXT_HANDLERS` at its default, the empty table (log entry 4). -/
def step (s : State) : Host.Outcome State Fault Refusal := stepWith ExtHandlers.empty s

/-- `s` with the instruction whose `nbits` table bits are `w` stored where `step` fetches next. It stands for the host's load
of a program (log entry 5). -/
def State.withFetchWord (s : State) (nbits w : Nat) : State := s.hostStore s.pc (tableWordBytes nbits w)

end Sys2Proof.Machine
end

