-- ==== Sys2Proof/Safety.lean ====
section
/-! DEFINITION. What counts as a safe state, the invariant of the machine, and the states a run can reach, in the terms the
statements use. -/
namespace Sys2Proof

/-- No fault has been raised: the latch is clear (spec/10_state.md R27). A faulted state is never a good final state
(spec/60_exceptions.md R234). -/
def Safe (s : Machine.State) : Prop := s.fault = none

/-- The address is in ROM, VRAM, WRAM or HRAM (R28). -/
def ArrayAddress (addr : Nat) : Prop :=
  addr ≤ 0x9FFF ∨ (0xC000 ≤ addr ∧ addr ≤ 0xDFFF) ∨ (0xFF80 ≤ addr ∧ addr ≤ 0xFFFE)

/-- The address is in VRAM, WRAM or HRAM, the arrays the CPU may write (R28). -/
def RamAddress (addr : Nat) : Prop :=
  (0x8000 ≤ addr ∧ addr ≤ 0x9FFF) ∨ (0xC000 ≤ addr ∧ addr ≤ 0xDFFF) ∨ (0xFF80 ≤ addr ∧ addr ≤ 0xFFFE)

/-- Every cell of memory belongs to one of the four arrays. -/
def CellsInArrays (m : Machine.Memory) : Prop := ∀ cell ∈ m, ArrayAddress cell.1

/-- The invariant: memory is canonical and lies in the arrays, the current line is below `TOTAL_LINES`
(spec/50_lcd_controller.md R192), and the stored sound length is at most 64 (spec/10_state.md R31). -/
structure Inv (s : Machine.State) : Prop where
  memory : s.mem.wf = true
  arrays : CellsInArrays s.mem
  line : s.lcd.currentLine < Config.totalLines
  length : s.snd.pulseA.length ≤ 64

/-- The states a run reaches with the table `ext` of further handlers: the power-on state for some `A_RESET` and images, and
the next state of a reached state (spec/70_reset_and_hazards.md R255). -/
inductive Reachable (ext : Machine.ExtHandlers) : Machine.State → Prop
  | powerOn (aReset : Byte) (boot cart : List Byte) (s : Machine.State)
      (h : Machine.State.powerOn aReset boot cart = some s) : Reachable ext s
  | step (s t : Machine.State) (hs : Reachable ext s) (h : Machine.stepWith ext s = .next t) : Reachable ext t

end Sys2Proof
end

