-- ==== Sys2Proof/Certificates/Slice0/Obligations.lean ====
section
/-! DEFINITION. The statements for the provers, each from numbered rules of spec/ or from the model's log where its docstring
says so. `hiByte`, `loByte` and `joinBytes` split and join 16-bit values; `s.memRead`, `s.memWrite` are the address decoder. -/
namespace Sys2Proof.Claims

/-- The 3-bit register code of spec/30_encoding.md R103. -/
def regCode : Reg8 → Nat
  | .b => 0
  | .c => 1
  | .d => 2
  | .e => 3
  | .h => 4
  | .l => 5
  | .a => 7

/-- The colour of a 2-bit index (spec/50_lcd_controller.md R186). -/
def colour : Nat → Machine.Colour
  | 0 => .white
  | 1 => .lightGray
  | 2 => .darkGray
  | _ => .black

/-- The duty of a 2-bit selector (spec/10_state.md R31). -/
def duty : Nat → Machine.Duty
  | 0 => .eighth
  | 1 => .quarter
  | 2 => .half
  | _ => .threeQuarters

/-- Bit `i` of a byte. -/
def bit (v : Byte) (i : Nat) : Bool := decide (v.toNat / 2 ^ i % 2 = 1)

/-- The opcode values of the primary table as spec/30_encoding.md R106 lists them, line by line. -/
def primaryValues : List Nat :=
  [0x04, 0x0C, 0x14, 0x1C, 0x24, 0x2C, 0x3C, 0x05, 0x0D, 0x15, 0x1D, 0x25, 0x2D, 0x3D, 0x06, 0x0E, 0x16, 0x1E, 0x26, 0x2E, 0x3E,
   0x01, 0x11, 0x21, 0x31, 0x77, 0x7E, 0x22, 0x2A, 0x32, 0x3A, 0x17, 0xAF, 0xFE, 0x18, 0x20, 0x28, 0xC5, 0xD5, 0xE5,
   0xC1, 0xD1, 0xE1, 0xCD, 0xC9, 0xCB]

end Sys2Proof.Claims

open Sys2Proof Sys2Proof.Machine

/-! ## Encoding -/

/-- Words written out from the encodings of spec/30_encoding.md sections 2 to 5, at least one of every family, decode to the
instruction they stand for. The opcode values are the spec's own choice but for four (its decision D2, entry G2). The last
word is no instruction of the spec: that 0xCB and an unregistered byte decode to the prefix itself, whose meaning raises the
DecodeFault, is the model's reading (log entry 8). -/
def Obligations.SpecWordsDecode : Prop :=
  decode [0x3E#8, 0x05#8] = .ok (.ldAImm 0x05#8, []) ∧ decode [0x3D#8] = .ok (.decA, []) ∧
  decode [0xAF#8] = .ok (.xorA, []) ∧ decode [0x2C#8] = .ok (.incL, []) ∧
  decode [0x21#8, 0x34#8, 0x12#8] = .ok (.ldHlImm 0x1234#16, []) ∧
  decode [0x31#8, 0xFE#8, 0xFF#8] = .ok (.ldSpImm 0xFFFE#16, []) ∧
  decode [0x77#8] = .ok (.ldHlA, []) ∧ decode [0x3A#8] = .ok (.ldAHlDec, []) ∧ decode [0x22#8] = .ok (.ldHlIncA, []) ∧
  decode [0x17#8] = .ok (.rla, []) ∧ decode [0xFE#8, 0x2F#8] = .ok (.cpImm 0x2F#8, []) ∧
  decode [0x20#8, 0xFB#8] = .ok (.jrNz 0xFB#8, []) ∧ decode [0xD5#8] = .ok (.pushDe, []) ∧
  decode [0xE1#8] = .ok (.popHl, []) ∧ decode [0xCD#8, 0x00#8, 0xC1#8] = .ok (.call 0xC100#16, []) ∧
  decode [0xC9#8] = .ok (.ret, []) ∧ decode [0xCB#8, 0x11#8] = .ok (.rlC, []) ∧
  decode [0xCB#8, 0x7C#8] = .ok (.bit7H, []) ∧ decode [0xCB#8, 0x16#8] = .ok (.prefixCb 0x16#8, [])

/-- Decoding the encoding of any well-formed instruction, whatever bytes follow it, gives the instruction with every operand
and leaves those bytes (spec/30_encoding.md sections 2 to 5). -/
def Obligations.DecodeOfEncode : Prop :=
  ∀ (i : Instr) (rest : List Byte), i.wellFormed = true → decode (encode i ++ rest) = .ok (i, rest)

/-- Whatever the decoder accepts is the encoding of the well-formed instruction it answers, followed by the bytes it leaves: no
second byte sequence stands for an instruction. -/
def Obligations.DecodeDeterminesBytes : Prop :=
  ∀ (bs rest : List Byte) (i : Instr), decode bs = .ok (i, rest) → i.wellFormed = true ∧ bs = encode i ++ rest

/-- A primary opcode byte is rejected as unregistered exactly when it is none of the 46 values of R106; with two bytes after
it a registered one always decodes (spec/30_encoding.md sections 4 and 6; the values are the spec's decisions D1, D2). For the
prefix 0xCB before an unregistered byte, where the spec raises a DecodeFault, this is the model's reading: it decodes to the
prefix itself, whose meaning raises that fault (log entry 8). -/
def Obligations.PrimaryTableIsExact : Prop :=
  ∀ (op b1 b2 : Byte) (rest : List Byte),
    (op.toNat ∉ Claims.primaryValues → decode (op :: rest) = .error (.unregistered op)) ∧
    (op.toNat ∈ Claims.primaryValues → ∃ i rest', decode (op :: b1 :: b2 :: rest) = .ok (i, rest'))

/-- After 0xCB the byte `0x10 + r` is `RL r`, the byte `0x40 + 8*b + r` is `BIT b,r` (r the register code of R103), and every
other byte is unregistered: the prefix itself, in the model's reading (log entry 8). The values are the spec's decision D2. -/
def Obligations.SecondaryTableIsExact : Prop :=
  (∀ (r : Reg8) (rest : List Byte),
    decode (0xCB#8 :: BitVec.ofNat 8 (0x10 + Claims.regCode r) :: rest) = .ok (Instr.rlOf r, rest)) ∧
  (∀ (b : BitVec 3) (r : Reg8) (rest : List Byte),
    decode (0xCB#8 :: BitVec.ofNat 8 (0x40 + 8 * b.toNat + Claims.regCode r) :: rest) = .ok (Instr.bitOf b r, rest)) ∧
  (∀ (op2 : Byte) (rest : List Byte), (∀ r, op2.toNat ≠ 0x10 + Claims.regCode r) →
    (∀ (b : BitVec 3) (r : Reg8), op2.toNat ≠ 0x40 + 8 * b.toNat + Claims.regCode r) →
    decode (0xCB#8 :: op2 :: rest) = .ok (.prefixCb op2, rest))

/-! ## The step -/

/-- When the bytes at PC decode to an instruction, the step runs it in the state before the step; a committed instruction is
then counted and followed by the LCD events of the schedule, one that raised is followed by nothing. The count of steps and
the run of all fetches before the meaning are the model's (log entries 3 and 10), and so is that a call at 0xFFFC runs, where
a corner case of the spec says a fetch at 0xFFFF faults first (log entry 13). -/
def Obligations.StepRunsDecodedInstruction : Prop :=
  ∀ (s t : State) (n : Nat) (bs : List Byte) (i : Instr), s.fault = none → s.readBytes n s.pc = .ok bs →
    decode bs = .ok (i, []) → exec i s = .next t →
    (t.fault = none → step s = .next
      { t with lcd := t.lcd.run Config.totalLines (Config.lcdSchedule (t.steps + 1)), steps := t.steps + 1 }) ∧
    (t.fault ≠ none → step s = .next t)

/-- What a fetch can raise (spec/30_encoding.md section 1, spec/60_exceptions.md section 1): the fault of the first byte that
cannot be read; DecodeFault with the opcode and the address of the instruction for an unregistered primary opcode. In each
case only the latch changes, PC included (the spec's decision D7). `truncated` says that the bytes so far want one more. -/
def Obligations.FetchRaisesFirstFault : Prop :=
  ∀ (s : State), s.fault = none →
    (∀ r, s.memRead s.pc = .error r → step s = .next { s with fault := some r }) ∧
    (∀ op, s.memRead s.pc = .ok op → decode [op] = .error (.unregistered op) →
      step s = .next { s with fault := some (.decodeFault .primary op s.pc) }) ∧
    (∀ op r, s.memRead s.pc = .ok op → decode [op] = .error .truncated → s.memRead (s.pc + 1#16) = .error r →
      step s = .next { s with fault := some r }) ∧
    (∀ op b r, s.memRead s.pc = .ok op → s.memRead (s.pc + 1#16) = .ok b → decode [op, b] = .error .truncated →
      s.memRead (s.pc + 2#16) = .error r → step s = .next { s with fault := some r })

/-- R170, the prefix in a step: the fault of the fetch of `op2`; DecodeFault with the address of the 0xCB byte and nothing
committed for an unregistered `op2`; for a registered one the secondary instruction, in the same step. -/
def Obligations.PrefixDispatchesInOneStep : Prop :=
  ∀ (s : State), s.fault = none → s.memRead s.pc = .ok 0xCB#8 →
    (∀ r, s.memRead (s.pc + 1#16) = .error r → step s = .next { s with fault := some r }) ∧
    (∀ op2, s.memRead (s.pc + 1#16) = .ok op2 → registeredSecondary op2 = false →
      step s = .next { s with fault := some (.decodeFault .secondary op2 s.pc) }) ∧
    (∀ op2 i t, s.memRead (s.pc + 1#16) = .ok op2 → registeredSecondary op2 = true →
      decode [0xCB#8, op2] = .ok (i, []) → exec i s = .next t → step s = .next t.settle)

/-- With the fault latch set there is no step: the machine is stopped for good (the spec's decision D7; that a step request is
answered by the fault `halted` is the model's, log entry 7). -/
def Obligations.LatchStopsTheMachine : Prop :=
  ∀ (s : State) (r : FaultRecord), s.fault = some r → step s = .fault (.halted r)

/-- A step is all or nothing: either the latch is clear after it, or the state is the state before it with the latch set. -/
def Obligations.StepIsAllOrNothing : Prop :=
  ∀ (s t : State), step s = .next t → t.fault = none ∨ ∃ r, t = { s with fault := some r }

/-- Every instruction either commits or raises, and is never refused: in the model's reading, where the step that raises is a
next state with the latch set (log entry 7), exec answers a next state in every state, and so does every step with the latch
clear. A machine that has raised then stops for good (LatchStopsTheMachine). -/
def Obligations.EveryStepAnswers : Prop :=
  (∀ (i : Instr) (s : State), ∃ t, exec i s = .next t) ∧ (∀ (s : State), s.fault = none → ∃ t, step s = .next t)

/-! ## Registers -/

/-- The seven registers are independent: a register reads as last written, and writing one changes no other register and no
other state. -/
def Obligations.RegistersAreIndependent : Prop :=
  ∀ (s : State) (r : Reg8) (v : Byte), (s.setReg8 r v).reg8 r = v ∧ (∀ q, q ≠ r → (s.setReg8 r v).reg8 q = s.reg8 q) ∧
    (s.setReg8 r v).flags = s.flags ∧ (s.setReg8 r v).sp = s.sp ∧ (s.setReg8 r v).pc = s.pc ∧
    (s.setReg8 r v).fault = s.fault ∧ (s.setReg8 r v).mem = s.mem ∧ (s.setReg8 r v).lcd = s.lcd ∧
    (s.setReg8 r v).snd = s.snd ∧ (s.setReg8 r v).steps = s.steps

/-- R23, the combined views BC, DE, HL: the value is 256 times the high register plus the low one, writing a view writes both
halves and nothing else, a view reads back what was written to it, and the views are zero at reset. -/
def Obligations.PairsAreViews : Prop :=
  ∀ (s : State) (v : Word),
    (s.pair .bc).toNat = s.b.toNat * 256 + s.c.toNat ∧ (s.pair .de).toNat = s.d.toNat * 256 + s.e.toNat ∧
    (s.pair .hl).toNat = s.h.toNat * 256 + s.l.toNat ∧
    s.setPair .bc v = { s with b := hiByte v, c := loByte v } ∧
    s.setPair .de v = { s with d := hiByte v, e := loByte v } ∧
    s.setPair .hl v = { s with h := hiByte v, l := loByte v } ∧
    (hiByte v).toNat = v.toNat / 256 ∧ (loByte v).toNat = v.toNat % 256 ∧
    (∀ p, (s.setPair p v).pair p = v) ∧ (∀ p, State.reset.pair p = 0x0000#16)

/-! ## Increment and decrement -/

/-- R130, `INC r` (incB, incC, incD, incE, incH, incL, incA): the result modulo 256, Z, N, H, the carry flag kept, PC + 1, and
nothing else changed. -/
def Obligations.IncrementResult : Prop :=
  ∀ (r : Reg8) (s : State), exec (Instr.incOf r) s = .next
    { s.setReg8 r (BitVec.ofNat 8 ((s.reg8 r).toNat + 1)) with
      flags := { z := decide (((s.reg8 r).toNat + 1) % 256 = 0), n := false, h := decide ((s.reg8 r).toNat % 16 = 15),
                 c := s.flags.c },
      pc := s.pc + 1#16 }

/-- R131, `DEC r` (decB, decC, decD, decE, decH, decL, decA): the result modulo 256, Z, N, H set when the low nibble was not
zero (spec/90_conflicts.md C2), the carry flag kept, PC + 1, and nothing else changed. -/
def Obligations.DecrementResult : Prop :=
  ∀ (r : Reg8) (s : State), exec (Instr.decOf r) s = .next
    { s.setReg8 r (BitVec.ofNat 8 ((s.reg8 r).toNat + 255)) with
      flags := { z := decide (((s.reg8 r).toNat + 255) % 256 = 0), n := true, h := decide ((s.reg8 r).toNat % 16 ≠ 0),
                 c := s.flags.c },
      pc := s.pc + 1#16 }

/-- The joint law of the two (the spec derives it): `INC r` then `DEC r` restores r and leaves Z = (r = 0), N = 1,
H = (low nibble of r not 15), C kept; `DEC r` then `INC r` restores r and leaves Z = (r = 0). -/
def Obligations.IncrementDecrementRestores : Prop :=
  ∀ (r : Reg8) (s : State),
    (∃ t u, exec (Instr.incOf r) s = .next t ∧ exec (Instr.decOf r) t = .next u ∧ (∀ q, u.reg8 q = s.reg8 q) ∧
      u.flags = { z := decide (s.reg8 r = 0#8), n := true, h := decide ((s.reg8 r).toNat % 16 ≠ 15), c := s.flags.c }) ∧
    (∃ t u, exec (Instr.decOf r) s = .next t ∧ exec (Instr.incOf r) t = .next u ∧ (∀ q, u.reg8 q = s.reg8 q) ∧
      u.flags.z = decide (s.reg8 r = 0#8) ∧ u.flags.c = s.flags.c)

/-! ## Loads and stores -/

/-- R140, `LD r,d8` (ldBImm to ldAImm): the register holds the immediate, PC + 2, nothing else changed. When the byte after
the opcode cannot be read, its fault is raised and only the latch changes. -/
def Obligations.LoadImmediateByte : Prop :=
  ∀ (r : Reg8) (s : State),
    (∀ n, exec (Instr.ldImmOf r n) s = .next { s.setReg8 r n with pc := s.pc + 2#16 }) ∧
    (∀ op f, s.fault = none → s.memRead s.pc = .ok op → (∀ n, decode [op, n] = .ok (Instr.ldImmOf r n, [])) →
      s.memRead (s.pc + 1#16) = .error f → step s = .next { s with fault := some f })

/-- `LD rr,d16` (ldBcImm, ldDeImm, ldHlImm, ldSpImm): the high register holds bits 15 to 8 and the low one bits 7 to 0, or SP
holds the word; PC + 3; nothing else changed. That SP is a target is the spec's decision D1. -/
def Obligations.LoadImmediateWord : Prop :=
  ∀ (nn : Word) (s : State),
    exec (.ldBcImm nn) s = .next { s with b := hiByte nn, c := loByte nn, pc := s.pc + 3#16 } ∧
    exec (.ldDeImm nn) s = .next { s with d := hiByte nn, e := loByte nn, pc := s.pc + 3#16 } ∧
    exec (.ldHlImm nn) s = .next { s with h := hiByte nn, l := loByte nn, pc := s.pc + 3#16 } ∧
    exec (.ldSpImm nn) s = .next { s with sp := nn, pc := s.pc + 3#16 }

/-- The stores through HL (ldHlA, ldHlIncA, ldHlDecA): where the bus accepts the write of A at HL, the state the write left,
with HL kept, plus one, minus one (modulo 65536) and PC + 1; where it faults, only the latch changes. That the address is HL
before the change is the spec's decision D5, the plain form and A as data its decision D1. -/
def Obligations.StoreThroughHl : Prop :=
  ∀ (s : State),
    (∀ u, s.memWrite (s.pair .hl) s.a = .ok u →
      exec .ldHlA s = .next { u with pc := s.pc + 1#16 } ∧
      exec .ldHlIncA s = .next
        { u with h := hiByte (s.pair .hl + 1#16), l := loByte (s.pair .hl + 1#16), pc := s.pc + 1#16 } ∧
      exec .ldHlDecA s = .next
        { u with h := hiByte (s.pair .hl - 1#16), l := loByte (s.pair .hl - 1#16), pc := s.pc + 1#16 }) ∧
    (∀ r, s.memWrite (s.pair .hl) s.a = .error r →
      exec .ldHlA s = .next { s with fault := some r } ∧ exec .ldHlIncA s = .next { s with fault := some r } ∧
      exec .ldHlDecA s = .next { s with fault := some r })

/-- A store through HL (ldHlA, ldHlIncA, ldHlDecA) with HL in a RAM: the byte at the old HL reads as A, for a fetch too, and
every other byte of memory reads as before; HL is kept, plus one, minus one, PC + 1; every register but H and L, the flags, SP,
the latch, the devices and the step count are unchanged. Rests on the spec's decision D5 for the address, on its decision D1 for
the plain form and A as data. -/
def Obligations.StoreThroughHlMemory : Prop :=
  ∀ (i : Instr) (s : State), i ∈ [Instr.ldHlA, .ldHlIncA, .ldHlDecA] → s.mem.wf = true →
    RamAddress (s.pair .hl).toNat →
    ∃ t, exec i s = .next t ∧ t.memRead (s.pair .hl) = .ok s.a ∧
      (∀ k, k ≠ (s.pair .hl).toNat → t.mem.read k = s.mem.read k) ∧
      (i = .ldHlA → t.pair .hl = s.pair .hl) ∧ (i = .ldHlIncA → t.pair .hl = s.pair .hl + 1#16) ∧
      (i = .ldHlDecA → t.pair .hl = s.pair .hl - 1#16) ∧ t.pc = s.pc + 1#16 ∧
      (∀ q, q ≠ .h → q ≠ .l → t.reg8 q = s.reg8 q) ∧ t.flags = s.flags ∧ t.sp = s.sp ∧ t.lcd = s.lcd ∧ t.snd = s.snd ∧
      t.fault = s.fault ∧ t.steps = s.steps

/-- The loads through HL (ldAHl, ldAHlInc, ldAHlDec): where the bus reads a byte at HL, A holds it, HL is kept, plus one,
minus one (modulo 65536), PC + 1, nothing else changed; where the read faults, only the latch changes. The address before the
change is the spec's decision D5, the plain form and A as data its decision D1. -/
def Obligations.LoadThroughHl : Prop :=
  ∀ (s : State),
    (∀ v, s.memRead (s.pair .hl) = .ok v →
      exec .ldAHl s = .next { s with a := v, pc := s.pc + 1#16 } ∧
      exec .ldAHlInc s = .next
        { s with a := v, h := hiByte (s.pair .hl + 1#16), l := loByte (s.pair .hl + 1#16), pc := s.pc + 1#16 } ∧
      exec .ldAHlDec s = .next
        { s with a := v, h := hiByte (s.pair .hl - 1#16), l := loByte (s.pair .hl - 1#16), pc := s.pc + 1#16 }) ∧
    (∀ r, s.memRead (s.pair .hl) = .error r →
      exec .ldAHl s = .next { s with fault := some r } ∧ exec .ldAHlInc s = .next { s with fault := some r } ∧
      exec .ldAHlDec s = .next { s with fault := some r })

/-! ## Operations on A -/

/-- `RLA` (rla): A doubled plus the carry, modulo 256; Z the result zero, N and H clear, C the old bit 7; PC + 1; nothing else
changed. That the primary rotate acts on A is the spec's decision D1. -/
def Obligations.RotateAResult : Prop :=
  ∀ (s : State), exec .rla s = .next
    { s with
      a := BitVec.ofNat 8 (2 * s.a.toNat + s.flags.c.toNat),
      flags := { z := decide ((2 * s.a.toNat + s.flags.c.toNat) % 256 = 0), n := false, h := false,
                 c := decide (128 ≤ s.a.toNat) },
      pc := s.pc + 1#16 }

/-- R151, `XOR A` (xorA), the opcode 0xAF: A exclusive-or A, which is zero for every A; Z set, N, H, C clear; PC + 1; nothing
else changed. -/
def Obligations.XorAResult : Prop :=
  ∀ (s : State), decode [0xAF#8] = .ok (.xorA, []) ∧ s.a ^^^ s.a = 0x00#8 ∧ exec .xorA s = .next
    { s with a := s.a ^^^ s.a, flags := { z := true, n := false, h := false, c := false }, pc := s.pc + 1#16 }

/-- R152, `CP d8` (cpImm): Z when equal, N set, H the borrow out of the low nibble, C the unsigned comparison; A kept; PC + 2;
nothing else changed. When the byte after the opcode cannot be read, its fault is raised and only the latch changes. -/
def Obligations.CompareResult : Prop :=
  ∀ (s : State),
    (∀ n, exec (.cpImm n) s = .next
      { s with
        flags := { z := decide (s.a = n), n := true, h := decide (s.a.toNat % 16 < n.toNat % 16),
                   c := decide (s.a.toNat < n.toNat) },
        pc := s.pc + 2#16 }) ∧
    (∀ op f, s.fault = none → s.memRead s.pc = .ok op → (∀ n, decode [op, n] = .ok (.cpImm n, [])) →
      s.memRead (s.pc + 1#16) = .error f → step s = .next { s with fault := some f })

/-! ## Control transfer and the stack -/

/-- `JR e` (jr): PC + 2 plus the signed displacement, modulo 65536, nothing else changed. The base and the wrap are the spec's
decisions D28 and D6. -/
def Obligations.JumpRelative : Prop :=
  ∀ (e : Byte) (s : State), exec (.jr e) s = .next { s with pc := BitVec.ofInt 16 (s.pc.toNat + 2 + e.toInt) }

/-- R161 and R162, `JR NZ,e` (jrNz) and `JR Z,e` (jrZ): taken, the target of a `JR e`; not taken, PC + 2; nothing else changed
either way. When the displacement byte cannot be read, taken or not, its fault is raised and only the latch changes. -/
def Obligations.JumpConditional : Prop :=
  ∀ (s : State),
    (∀ e, s.flags.z = false →
      exec (.jrNz e) s = .next { s with pc := BitVec.ofInt 16 (s.pc.toNat + 2 + e.toInt) } ∧
      exec (.jrZ e) s = .next { s with pc := s.pc + 2#16 }) ∧
    (∀ e, s.flags.z = true →
      exec (.jrNz e) s = .next { s with pc := s.pc + 2#16 } ∧
      exec (.jrZ e) s = .next { s with pc := BitVec.ofInt 16 (s.pc.toNat + 2 + e.toInt) }) ∧
    (∀ op f, s.fault = none → s.memRead s.pc = .ok op →
      (∀ e, decode [op, e] = .ok (.jrNz e, [])) ∨ (∀ e, decode [op, e] = .ok (.jrZ e, [])) →
      s.memRead (s.pc + 1#16) = .error f → step s = .next { s with fault := some f })

/-- `PUSH rr` (pushBc, pushDe, pushHl): the high register is written at SP - 1, then the low one at SP - 2; SP - 2, PC + 1. A
write that faults, the first one first, changes the latch only. The byte order and the order of the two writes are the spec's
decision D4. -/
def Obligations.PushResult : Prop :=
  ∀ (p : Pair) (s : State),
    (∀ u w, s.memWrite (s.sp - 1#16) (s.reg8 (pairHi p)) = .ok u → u.memWrite (s.sp - 2#16) (s.reg8 (pairLo p)) = .ok w →
      exec (Instr.pushOf p) s = .next { w with sp := s.sp - 2#16, pc := s.pc + 1#16 }) ∧
    (∀ r, s.memWrite (s.sp - 1#16) (s.reg8 (pairHi p)) = .error r →
      exec (Instr.pushOf p) s = .next { s with fault := some r }) ∧
    (∀ u r, s.memWrite (s.sp - 1#16) (s.reg8 (pairHi p)) = .ok u →
      u.memWrite (s.sp - 2#16) (s.reg8 (pairLo p)) = .error r →
      exec (Instr.pushOf p) s = .next { s with fault := some r })

/-- `CALL a16` (call): the address after the call, PC + 3, is pushed as by a push, then PC holds the target. A write that faults,
the first one first, changes the latch only. The byte order is the spec's decision D4. That a call at 0xFFFC is among the states
is the model's choice (log entry 13). -/
def Obligations.CallResult : Prop :=
  ∀ (nn : Word) (s : State),
    (∀ u w, s.memWrite (s.sp - 1#16) (hiByte (s.pc + 3#16)) = .ok u →
      u.memWrite (s.sp - 2#16) (loByte (s.pc + 3#16)) = .ok w →
      exec (.call nn) s = .next { w with sp := s.sp - 2#16, pc := nn }) ∧
    (∀ r, s.memWrite (s.sp - 1#16) (hiByte (s.pc + 3#16)) = .error r →
      exec (.call nn) s = .next { s with fault := some r }) ∧
    (∀ u r, s.memWrite (s.sp - 1#16) (hiByte (s.pc + 3#16)) = .ok u →
      u.memWrite (s.sp - 2#16) (loByte (s.pc + 3#16)) = .error r → exec (.call nn) s = .next { s with fault := some r })

/-- The frame of a push or call (pushBc, pushDe, pushHl, call) with both stack bytes in a RAM: every byte of memory but those
at SP - 1 and SP - 2 reads as before, those two read as the two halves of the pushed value, SP is two lower, PC is one higher
for a push and the target for a call, and the registers, flags, latch, devices and step count are unchanged. The byte order is
the spec's decision D4. That a call at 0xFFFC is among the states is the model's choice (log entry 13). -/
def Obligations.PushedBytesAndFrame : Prop :=
  ∀ (i : Instr) (v pc' : Word) (s : State),
    ((i = .pushBc ∧ v = s.pair .bc ∧ pc' = s.pc + 1#16) ∨ (i = .pushDe ∧ v = s.pair .de ∧ pc' = s.pc + 1#16) ∨
      (i = .pushHl ∧ v = s.pair .hl ∧ pc' = s.pc + 1#16) ∨ (i = .call pc' ∧ v = s.pc + 3#16)) →
    s.mem.wf = true → RamAddress (s.sp - 1#16).toNat → RamAddress (s.sp - 2#16).toNat →
    ∃ t, exec i s = .next t ∧ t.memRead (s.sp - 1#16) = .ok (hiByte v) ∧ t.memRead (s.sp - 2#16) = .ok (loByte v) ∧
      (∀ k, k ≠ (s.sp - 1#16).toNat → k ≠ (s.sp - 2#16).toNat → t.mem.read k = s.mem.read k) ∧
      t.sp = s.sp - 2#16 ∧ t.pc = pc' ∧ (∀ q, t.reg8 q = s.reg8 q) ∧ t.flags = s.flags ∧ t.lcd = s.lcd ∧ t.snd = s.snd ∧
      t.fault = s.fault ∧ t.steps = s.steps

/-- `POP rr` (popBc, popDe, popHl): the low register holds the byte at SP, the high one the byte at SP + 1; SP + 2, PC + 1,
nothing else changed. A read that faults, the one at SP first, changes the latch only. The byte order is the spec's decision
D4. -/
def Obligations.PopResult : Prop :=
  ∀ (p : Pair) (s : State),
    (∀ lo hi, s.memRead s.sp = .ok lo → s.memRead (s.sp + 1#16) = .ok hi →
      exec (Instr.popOf p) s = .next
        { (s.setReg8 (pairHi p) hi).setReg8 (pairLo p) lo with sp := s.sp + 2#16, pc := s.pc + 1#16 }) ∧
    (∀ r, s.memRead s.sp = .error r → exec (Instr.popOf p) s = .next { s with fault := some r }) ∧
    (∀ lo r, s.memRead s.sp = .ok lo → s.memRead (s.sp + 1#16) = .error r →
      exec (Instr.popOf p) s = .next { s with fault := some r })

/-- `RET` (ret): PC holds the word popped, low byte at SP, high byte at SP + 1; SP + 2, nothing else changed. A read that
faults, the one at SP first, changes the latch only. The byte order is the spec's decision D4. -/
def Obligations.ReturnResult : Prop :=
  ∀ (s : State),
    (∀ lo hi, s.memRead s.sp = .ok lo → s.memRead (s.sp + 1#16) = .ok hi →
      exec .ret s = .next { s with pc := joinBytes hi lo, sp := s.sp + 2#16 }) ∧
    (∀ r, s.memRead s.sp = .error r → exec .ret s = .next { s with fault := some r }) ∧
    (∀ lo r, s.memRead s.sp = .ok lo → s.memRead (s.sp + 1#16) = .error r →
      exec .ret s = .next { s with fault := some r })

/-- A push into a RAM followed by a pop, of the same or another view, gives the view popped the value pushed and restores SP
(the spec derives it from its push and pop). -/
def Obligations.PushThenPop : Prop :=
  ∀ (p q : Pair) (s : State), s.mem.wf = true → RamAddress (s.sp - 1#16).toNat → RamAddress (s.sp - 2#16).toNat →
    ∃ t u, exec (Instr.pushOf p) s = .next t ∧ exec (Instr.popOf q) t = .next u ∧ u.pair q = s.pair p ∧ u.sp = s.sp ∧
      u.pc = s.pc + 2#16

/-- If a call commits into a RAM and the subroutine leaves SP and the two stack bytes as the call left them, the return goes to
the address after the call and restores SP (the spec derives it from its call and return). That a call at 0xFFFC is among the
states is the model's choice (log entry 13). -/
def Obligations.CallThenReturn : Prop :=
  ∀ (nn : Word) (s : State), s.mem.wf = true → RamAddress (s.sp - 1#16).toNat → RamAddress (s.sp - 2#16).toNat →
    ∃ t, exec (.call nn) s = .next t ∧ t.pc = nn ∧
      ∀ w : State, w.sp = t.sp → w.memRead t.sp = t.memRead t.sp → w.memRead (t.sp + 1#16) = t.memRead (t.sp + 1#16) →
        ∃ u, exec .ret w = .next u ∧ u.pc = s.pc + 3#16 ∧ u.sp = s.sp

/-! ## The secondary table -/

/-- `RL r` (rlB, rlC, rlD, rlE, rlH, rlL, rlA): the register doubled plus the carry, modulo 256; Z the result zero, N and H
clear, C the old bit 7; PC + 2; nothing else changed. Which rotates are registered is the spec's decision D1. -/
def Obligations.RotateRegisterResult : Prop :=
  ∀ (r : Reg8) (s : State), exec (Instr.rlOf r) s = .next
    { s.setReg8 r (BitVec.ofNat 8 (2 * (s.reg8 r).toNat + s.flags.c.toNat)) with
      flags := { z := decide ((2 * (s.reg8 r).toNat + s.flags.c.toNat) % 256 = 0), n := false, h := false,
                 c := decide (128 ≤ (s.reg8 r).toNat) },
      pc := s.pc + 2#16 }

/-- R172, `BIT b,r` (all 56 of bit0B to bit7A, by bit number and register): Z when the bit is 0, N clear, H set, the carry flag
kept; no register written; PC + 2; nothing else changed. -/
def Obligations.TestBitResult : Prop :=
  ∀ (b : BitVec 3) (r : Reg8) (s : State), exec (Instr.bitOf b r) s = .next
    { s with
      flags := { z := decide ((s.reg8 r).toNat / 2 ^ b.toNat % 2 = 0), n := false, h := true, c := s.flags.c },
      pc := s.pc + 2#16 }

/-- The prefix as an instruction (prefixCb), in the model's reading (log entry 8): on a registered `op2` it does what that
secondary instruction does; on any other it raises DecodeFault(secondary, op2, address of the prefix) and changes nothing
else. -/
def Obligations.PrefixMeaning : Prop :=
  (∀ (r : Reg8) (s : State),
    exec (.prefixCb (BitVec.ofNat 8 (0x10 + Claims.regCode r))) s = exec (Instr.rlOf r) s) ∧
  (∀ (b : BitVec 3) (r : Reg8) (s : State),
    exec (.prefixCb (BitVec.ofNat 8 (0x40 + 8 * b.toNat + Claims.regCode r))) s = exec (Instr.bitOf b r) s) ∧
  (∀ (op2 : Byte) (s : State), registeredSecondary op2 = false →
    exec (.prefixCb op2) s = .next { s with fault := some (.decodeFault .secondary op2 s.pc) })

/-! ## Memory and the address decoder -/

/-- The decoder's read, row by row: the arrays give the byte of memory; the unmapped ranges AddressFault; the sound window
ProtocolViolation; 0xFF44 the current line; the rest of the LCD window ProtocolViolation. The WRAM range and the register
addresses are the spec's decisions D10, D13, D16. -/
def Obligations.BusReadRows : Prop :=
  ∀ (s : State) (addr : Word),
    (ArrayAddress addr.toNat → s.memRead addr = .ok (s.mem.read addr.toNat)) ∧
    ((0xA000 ≤ addr.toNat ∧ addr.toNat ≤ 0xBFFF) ∨ (0xE000 ≤ addr.toNat ∧ addr.toNat ≤ 0xFF0F) ∨
      (0xFF4C ≤ addr.toNat ∧ addr.toNat ≤ 0xFF7F) ∨ addr.toNat = 0xFFFF →
      s.memRead addr = .error (.addressFault addr .read)) ∧
    (0xFF10 ≤ addr.toNat ∧ addr.toNat ≤ 0xFF3F →
      s.memRead addr = .error (.protocolViolation addr .unsupportedRegisterRead)) ∧
    (addr.toNat = 0xFF44 → s.memRead addr = .ok (BitVec.ofNat 8 s.lcd.currentLine)) ∧
    (0xFF40 ≤ addr.toNat ∧ addr.toNat ≤ 0xFF4B ∧ addr.toNat ≠ 0xFF44 →
      s.memRead addr = .error (.protocolViolation addr .unsupportedRegisterRead))

/-- The decoder's write, row by row, but for the device registers that accept a write: ROM WriteProtectFault; the RAMs store
the byte; the unmapped ranges AddressFault; every window address without a writable register ProtocolViolation. The WRAM range
and the register addresses are the spec's decisions D10, D13, D14, D15, D16. -/
def Obligations.BusWriteRows : Prop :=
  ∀ (s : State) (addr : Word) (v : Byte),
    (addr.toNat ≤ 0x7FFF → s.memWrite addr v = .error (.writeProtectFault addr v)) ∧
    (RamAddress addr.toNat → s.memWrite addr v = .ok { s with mem := s.mem.write addr.toNat v }) ∧
    ((0xA000 ≤ addr.toNat ∧ addr.toNat ≤ 0xBFFF) ∨ (0xE000 ≤ addr.toNat ∧ addr.toNat ≤ 0xFF0F) ∨
      (0xFF4C ≤ addr.toNat ∧ addr.toNat ≤ 0xFF7F) ∨ addr.toNat = 0xFFFF →
      s.memWrite addr v = .error (.addressFault addr .write)) ∧
    (0xFF10 ≤ addr.toNat ∧ addr.toNat ≤ 0xFF3F ∧ addr.toNat ∉ [0xFF11, 0xFF12, 0xFF24, 0xFF25, 0xFF26] →
      s.memWrite addr v = .error (.protocolViolation addr .unsupportedRegisterWrite)) ∧
    (0xFF40 ≤ addr.toNat ∧ addr.toNat ≤ 0xFF4B ∧ addr.toNat ∉ [0xFF40, 0xFF42, 0xFF43, 0xFF47] →
      s.memWrite addr v = .error (.protocolViolation addr .unsupportedRegisterWrite))

/-- A write to a RAM is seen by the next read of that address and changes no other read, in canonical memory
(spec/20_memory.md section 4). -/
def Obligations.RamReadAfterWrite : Prop :=
  ∀ (s : State) (addr : Word) (v : Byte), s.mem.wf = true → RamAddress addr.toNat →
    ∃ t, s.memWrite addr v = .ok t ∧ t.memRead addr = .ok v ∧ ∀ other, other ≠ addr → t.memRead other = s.memRead other

/-- No step changes a byte of the ROM window, from any state (spec/20_memory.md section 2). -/
def Obligations.RomNeverChanges : Prop :=
  ∀ (s t : State), step s = .next t → ∀ addr, addr ≤ 0x7FFF → t.mem.read addr = s.mem.read addr

/-! ## Invariants -/

/-- Every step keeps the invariant: canonical memory inside the arrays, the line below `TOTAL_LINES`, the length at most 64. -/
def Obligations.StepKeepsInvariant : Prop :=
  ∀ (s t : State), Inv s → step s = .next t → Inv t

/-- The state after reset meets the invariant. -/
def Obligations.ResetMeetsInvariant : Prop := Inv State.reset

/-- The power-on state meets the invariant whatever `A_RESET` and the two images are. -/
def Obligations.PowerOnMeetsInvariant : Prop :=
  ∀ (aReset : Byte) (boot cart : List Byte) (s : State), State.powerOn aReset boot cart = some s → Inv s

/-- In every reachable state, whatever the table of further handlers, the current line is below `TOTAL_LINES`, which is at most
256, so it is the byte a read of 0xFF44 gives (the spec derives it). That a handler is a program over the core's operations is
the model's (log entry 4). -/
def Obligations.ReachableLineIsAByte : Prop :=
  Config.totalLines ≤ 256 ∧
  ∀ (ext : ExtHandlers) (s : State), Reachable ext s → s.lcd.currentLine < Config.totalLines ∧
    ∃ v, s.memRead 0xFF44#16 = .ok v ∧ v.toNat = s.lcd.currentLine

/-! ## The LCD controller -/

/-- A write of the LCD control byte at 0xFF40: clearing `enable` outside VBlank is a violation; in VBlank it stores the eight
flags and resets the line; any other write stores the eight flags; nothing else changes. The address and the bit numbers are
the spec's decision D13. -/
def Obligations.LcdControlWrite : Prop :=
  ∀ (s : State) (v : Byte) (l : Lcdc),
    l = { enable := Claims.bit v 7, windowMapSelect := Claims.bit v 6, windowEnable := Claims.bit v 5,
          tileDataSelect := Claims.bit v 4, bgMapSelect := Claims.bit v 3, spriteSize := Claims.bit v 2,
          spriteEnable := Claims.bit v 1, bgEnable := Claims.bit v 0 } →
    (s.lcd.lcdc.enable = true → v.toNat < 128 → s.lcd.mode ≠ .vBlank →
      s.memWrite 0xFF40#16 v = .error (.protocolViolation 0xFF40#16 .lcdDisableOutsideVBlank)) ∧
    (s.lcd.lcdc.enable = true → v.toNat < 128 → s.lcd.mode = .vBlank →
      s.memWrite 0xFF40#16 v = .ok { s with lcd := { s.lcd with lcdc := l, currentLine := 0 } }) ∧
    (s.lcd.lcdc.enable = false ∨ 128 ≤ v.toNat →
      s.memWrite 0xFF40#16 v = .ok { s with lcd := { s.lcd with lcdc := l } })

/-- A write of the palette register at 0xFF47 decodes four 2-bit fields, lowest first, into four colours, in every mode; nothing
else changes. The address is the spec's decision D13. -/
def Obligations.PaletteWrite : Prop :=
  ∀ (s : State) (v : Byte), s.memWrite 0xFF47#16 v = .ok
    { s with lcd := { s.lcd with palette :=
      { slot0 := Claims.colour (v.toNat % 4), slot1 := Claims.colour (v.toNat / 4 % 4),
        slot2 := Claims.colour (v.toNat / 16 % 4), slot3 := Claims.colour (v.toNat / 64) } } }

/-- Writes of the scroll registers at 0xFF42 and 0xFF43 store the raw byte, in every mode; nothing else changes. The two
addresses are the spec's decision D13. -/
def Obligations.ScrollWrites : Prop :=
  ∀ (s : State) (v : Byte),
    s.memWrite 0xFF42#16 v = .ok { s with lcd := { s.lcd with scy := v } } ∧
    s.memWrite 0xFF43#16 v = .ok { s with lcd := { s.lcd with scx := v } }

/-- One `LcdAdvance` moves the mode one place round the ring and counts a line, modulo the total, when the ring closes; nothing
else changes. The ring is the spec's decision D17. -/
def Obligations.LcdAdvanceRing : Prop :=
  ∀ (l : Lcd) (total : Nat),
    (l.mode = .accessOam → l.advance total = { l with mode := .accessVram }) ∧
    (l.mode = .accessVram → l.advance total = { l with mode := .hBlank }) ∧
    (l.mode = .hBlank → l.advance total = { l with mode := .vBlank }) ∧
    (l.mode = .vBlank → l.advance total = { l with mode := .accessOam, currentLine := (l.currentLine + 1) % total })

/-- Four events count one line whatever the mode, and four times the total events give the same state again (derived from the
ring, the spec's decision D17; spec/95_test_vectors.md section 2.11). -/
def Obligations.LcdFramePeriod : Prop :=
  ∀ (l : Lcd) (total : Nat), l.currentLine < total →
    l.run total 4 = { l with currentLine := (l.currentLine + 1) % total } ∧ l.run total (4 * total) = l

/-- The enable flag goes from set to clear only in a step begun in VBlank; that step resets the line to 0 before the LCD events
that follow it. From any state. -/
def Obligations.EnableClearedOnlyInVBlank : Prop :=
  ∀ (s t : State), step s = .next t → s.lcd.lcdc.enable = true → t.lcd.lcdc.enable = false →
    s.lcd.mode = .vBlank ∧
    (t.lcd.mode, t.lcd.currentLine) =
      lcdEvents Config.totalLines (Config.lcdSchedule (s.steps + 1)) (.vBlank, 0)

/-- The mode is moved by LCD events only: a committed step moves it by exactly the number of events the schedule gives for that
step, whatever the instruction; a step that raised leaves the whole LCD controller. The count of steps is the model's field
(log entry 3), the schedule the spec's decision D18. -/
def Obligations.ModeFollowsSchedule : Prop :=
  ∀ (s t : State), step s = .next t →
    (t.fault = none → t.steps = s.steps + 1 ∧ t.lcd.mode = nextMode^[Config.lcdSchedule (s.steps + 1)] s.lcd.mode) ∧
    (t.fault ≠ none → t.steps = s.steps ∧ t.lcd = s.lcd)

/-! ## The sound controller -/

/-- The five sound registers: length and duty at 0xFF11, envelope at 0xFF12, channel control at 0xFF24, routing at 0xFF25,
master enable at 0xFF26; each write decodes the fields of its byte and changes nothing else. The addresses and the nibble
layouts are the spec's decision D15, the duty names its decision D25. -/
def Obligations.SoundRegisterWrites : Prop :=
  ∀ (s : State) (v : Byte),
    s.memWrite 0xFF11#16 v = .ok { s with snd := { s.snd with pulseA := { s.snd.pulseA with
      length := 64 - v.toNat % 64, duty := Claims.duty (v.toNat / 64) } } } ∧
    s.memWrite 0xFF12#16 v = .ok { s with snd := { s.snd with pulseA := { s.snd.pulseA with
      envSteps := BitVec.ofNat 3 (v.toNat % 8),
      envDir := if Claims.bit v 3 then .increasing else .decreasing } } } ∧
    s.memWrite 0xFF24#16 v = .ok { s with snd := { s.snd with
      mixHi := { s.snd.mixHi with vin := Claims.bit v 7, volume := BitVec.ofNat 3 (v.toNat / 16 % 8) },
      mixLo := { s.snd.mixLo with vin := Claims.bit v 3, volume := BitVec.ofNat 3 (v.toNat % 8) } } } ∧
    s.memWrite 0xFF25#16 v = .ok { s with snd := { s.snd with
      mixLo := { s.snd.mixLo with route := BitVec.ofNat 4 (v.toNat % 16) },
      mixHi := { s.snd.mixHi with route := BitVec.ofNat 4 (v.toNat / 16) } } } ∧
    s.memWrite 0xFF26#16 v = .ok { s with snd := { s.snd with enabled := Claims.bit v 7 } }

/-- No step changes the envelope's starting volume, from any state (spec/51_sound_controller.md, the envelope register). -/
def Obligations.InitialVolumeNeverChanges : Prop :=
  ∀ (s t : State), step s = .next t → t.snd.pulseA.envInitialVolume = s.snd.pulseA.envInitialVolume

/-! ## What nothing reads, and flag frames -/

/-- R209: nothing inside the hardware reads the sound fields. Two states that differ in the sound controller only step to
states that differ in it only, and one stops exactly when the other does. -/
def Obligations.SoundFieldsAreNotRead : Prop :=
  ∀ (s : State) (d : Snd),
    (∀ t, step s = .next t → ∃ d', step { s with snd := d } = .next { t with snd := d' }) ∧
    (∀ f, step s = .fault f → step { s with snd := d } = .fault f)

/-- No registered instruction reads F.N or F.H (spec/10_state.md, the flag table): two states that differ in these two flags only
step to states that differ in them only. -/
def Obligations.SubtractAndHalfCarryAreNotRead : Prop :=
  ∀ (s t : State) (n h : Bool), step s = .next t →
    ∃ n' h', step { s with flags := { s.flags with n := n, h := h } } =
      .next { t with flags := { t.flags with n := n', h := h' } }

/-- The last row of the flag table of spec/10_state.md: no load, store, jump, push, pop, call or return changes a flag, and
increment, decrement and bit test leave the carry flag. -/
def Obligations.FlagFrame : Prop :=
  (∀ (i : Instr) (s t : State), exec i s = .next t →
    ((∃ r n, i = Instr.ldImmOf r n) ∨ (∃ p nn, i = Instr.ldPairImmOf p nn) ∨ (∃ nn, i = .ldSpImm nn) ∨
      i ∈ [Instr.ldHlA, .ldAHl, .ldHlIncA, .ldAHlInc, .ldHlDecA, .ldAHlDec, .ret] ∨
      (∃ e, i = .jr e ∨ i = .jrNz e ∨ i = .jrZ e) ∨ (∃ p, i = Instr.pushOf p ∨ i = Instr.popOf p) ∨ (∃ nn, i = .call nn)) →
    t.flags = s.flags) ∧
  (∀ (i : Instr) (s t : State), exec i s = .next t →
    ((∃ r, i = Instr.incOf r ∨ i = Instr.decOf r) ∨ (∃ b r, i = Instr.bitOf b r)) → t.flags.c = s.flags.c)

/-! ## Reset -/

/-- The state after power-on with empty images, field by field, whatever `A_RESET` is. The values of the mode and the palette
and `A_RESET` open are the spec's decision D19; `steps` is the model's (log entry 3). `State.reset` is this state at the opaque
`Config.aReset` (log entries 1 and 5). -/
def Obligations.ResetValues : Prop :=
  State.powerOn Config.aReset [] [] = some State.reset ∧
  ∀ aReset : Byte, State.powerOn aReset [] [] = some
    { a := aReset, b := 0#8, c := 0#8, d := 0#8, e := 0#8, h := 0#8, l := 0#8,
      flags := { z := false, n := false, h := false, c := false }, sp := 0#16, pc := 0#16, fault := none, mem := [],
      lcd :=
        { lcdc := { enable := false, windowMapSelect := false, windowEnable := false, tileDataSelect := false,
                    bgMapSelect := false, spriteSize := false, spriteEnable := false, bgEnable := false },
          scy := 0#8, scx := 0#8, palette := { slot0 := .white, slot1 := .white, slot2 := .white, slot3 := .white },
          currentLine := 0, mode := .accessOam },
      snd :=
        { enabled := false, mixLo := { volume := 0#3, vin := false, route := 0#4 },
          mixHi := { volume := 0#3, vin := false, route := 0#4 },
          pulseA := { duty := .eighth, length := 0, envInitialVolume := 0#4, envSteps := 0#3, envDir := .decreasing } },
      steps := 0 }

/-- The ROM after power-on is the boot image laid over the cartridge image, 0x00 beyond both; every byte of VRAM, WRAM and HRAM
is 0x00; an image longer than 0x8000 bytes is refused. The placement of the images is the spec's decision D12, the refusal its
decision D30. -/
def Obligations.ImagesAtPowerOn : Prop :=
  ∀ (aReset : Byte) (boot cart : List Byte),
    (boot.length ≤ 0x8000 → cart.length ≤ 0x8000 →
      ∃ s, State.powerOn aReset boot cart = some s ∧ s.a = aReset ∧
        (∀ addr : Word, addr.toNat ≤ 0x7FFF → s.memRead addr = .ok
          (if addr.toNat < boot.length then boot.getD addr.toNat 0#8
           else if addr.toNat < cart.length then cart.getD addr.toNat 0#8
           else 0x00#8)) ∧
        (∀ addr : Word, RamAddress addr.toNat → s.memRead addr = .ok 0x00#8)) ∧
    (0x8000 < boot.length ∨ 0x8000 < cart.length → State.powerOn aReset boot cart = none)

/-! ## The open table of further handlers -/

/-- `EXT_HANDLERS` as an argument of the step: it is `step` at the empty table; where the byte at PC cannot be read, is a
registered primary opcode, or is the prefix without an unregistered byte after it, the table changes nothing; an opcode outside
the spec's tables runs its entry with PC past the opcode bytes, committing or raising, and raises DecodeFault where there is no
entry. What an entry is, a program over the core's operations, is the model's (log entry 4). -/
def Obligations.ExtensionDispatch : Prop :=
  ∀ (ext : ExtHandlers) (s : State), stepWith ExtHandlers.empty s = step s ∧
    (∀ r, s.memRead s.pc = .error r → stepWith ext s = step s) ∧
    (∀ op, s.memRead s.pc = .ok op → op.toNat ∈ Claims.primaryValues → op ≠ 0xCB#8 → stepWith ext s = step s) ∧
    (s.memRead s.pc = .ok 0xCB#8 → (∀ op2, s.memRead (s.pc + 1#16) = .ok op2 → registeredSecondary op2 = true) →
      stepWith ext s = step s) ∧
    (∀ op, s.fault = none → s.memRead s.pc = .ok op → op.toNat ∉ Claims.primaryValues →
      (ext.primary op = none → stepWith ext s = .next { s with fault := some (.decodeFault .primary op s.pc) }) ∧
      (∀ h t, ext.primary op = some h → h.run { s with pc := s.pc + 1#16 } = .ok t → stepWith ext s = .next t.settle) ∧
      (∀ h r, ext.primary op = some h → h.run { s with pc := s.pc + 1#16 } = .error r →
        stepWith ext s = .next { s with fault := some r })) ∧
    (∀ op2, s.fault = none → s.memRead s.pc = .ok 0xCB#8 → s.memRead (s.pc + 1#16) = .ok op2 →
      registeredSecondary op2 = false →
      (ext.secondary op2 = none → stepWith ext s = .next { s with fault := some (.decodeFault .secondary op2 s.pc) }) ∧
      (∀ h t, ext.secondary op2 = some h → h.run { s with pc := s.pc + 2#16 } = .ok t → stepWith ext s = .next t.settle) ∧
      (∀ h r, ext.secondary op2 = some h → h.run { s with pc := s.pc + 2#16 } = .error r →
        stepWith ext s = .next { s with fault := some r }))

/-- What every step keeps whatever the table of further handlers: the invariant, the ROM window, the envelope's starting
volume; all or nothing; the mode moved by the schedule's events only. That a handler works through the core's operations is the
model's (log entry 4), the count of steps too (log entry 3). -/
def Obligations.EveryTableKeepsTheMachine : Prop :=
  ∀ (ext : ExtHandlers) (s t : State), stepWith ext s = .next t →
    (Inv s → Inv t) ∧ (∀ addr, addr ≤ 0x7FFF → t.mem.read addr = s.mem.read addr) ∧
    t.snd.pulseA.envInitialVolume = s.snd.pulseA.envInitialVolume ∧
    (t.fault = none ∨ ∃ r, t = { s with fault := some r }) ∧
    (t.fault = none → t.steps = s.steps + 1 ∧ t.lcd.mode = nextMode^[Config.lcdSchedule (s.steps + 1)] s.lcd.mode)
end

