-- ==== Sys2Proof/Laws/State.lean ====
section
/-! SUPPORT. One lemma per field per update of the state, so that no later proof unfolds a record update. -/
namespace Sys2Proof.Machine

@[simp] theorem reg8_b (s : State) : s.reg8 .b = s.b := rfl
@[simp] theorem reg8_c (s : State) : s.reg8 .c = s.c := rfl
@[simp] theorem reg8_d (s : State) : s.reg8 .d = s.d := rfl
@[simp] theorem reg8_e (s : State) : s.reg8 .e = s.e := rfl
@[simp] theorem reg8_h (s : State) : s.reg8 .h = s.h := rfl
@[simp] theorem reg8_l (s : State) : s.reg8 .l = s.l := rfl
@[simp] theorem reg8_a (s : State) : s.reg8 .a = s.a := rfl

@[simp] theorem setReg8_b (s : State) (r : Reg8) (v : Byte) :
    (s.setReg8 r v).b = if r = .b then v else s.b := by cases r <;> rfl
@[simp] theorem setReg8_c (s : State) (r : Reg8) (v : Byte) :
    (s.setReg8 r v).c = if r = .c then v else s.c := by cases r <;> rfl
@[simp] theorem setReg8_d (s : State) (r : Reg8) (v : Byte) :
    (s.setReg8 r v).d = if r = .d then v else s.d := by cases r <;> rfl
@[simp] theorem setReg8_e (s : State) (r : Reg8) (v : Byte) :
    (s.setReg8 r v).e = if r = .e then v else s.e := by cases r <;> rfl
@[simp] theorem setReg8_h (s : State) (r : Reg8) (v : Byte) :
    (s.setReg8 r v).h = if r = .h then v else s.h := by cases r <;> rfl
@[simp] theorem setReg8_l (s : State) (r : Reg8) (v : Byte) :
    (s.setReg8 r v).l = if r = .l then v else s.l := by cases r <;> rfl
@[simp] theorem setReg8_a (s : State) (r : Reg8) (v : Byte) :
    (s.setReg8 r v).a = if r = .a then v else s.a := by cases r <;> rfl
@[simp] theorem setReg8_flags (s : State) (r : Reg8) (v : Byte) : (s.setReg8 r v).flags = s.flags := by cases r <;> rfl
@[simp] theorem setReg8_sp (s : State) (r : Reg8) (v : Byte) : (s.setReg8 r v).sp = s.sp := by cases r <;> rfl
@[simp] theorem setReg8_pc (s : State) (r : Reg8) (v : Byte) : (s.setReg8 r v).pc = s.pc := by cases r <;> rfl
@[simp] theorem setReg8_fault (s : State) (r : Reg8) (v : Byte) : (s.setReg8 r v).fault = s.fault := by cases r <;> rfl
@[simp] theorem setReg8_mem (s : State) (r : Reg8) (v : Byte) : (s.setReg8 r v).mem = s.mem := by cases r <;> rfl
@[simp] theorem setReg8_lcd (s : State) (r : Reg8) (v : Byte) : (s.setReg8 r v).lcd = s.lcd := by cases r <;> rfl
@[simp] theorem setReg8_snd (s : State) (r : Reg8) (v : Byte) : (s.setReg8 r v).snd = s.snd := by cases r <;> rfl
@[simp] theorem setReg8_steps (s : State) (r : Reg8) (v : Byte) : (s.setReg8 r v).steps = s.steps := by cases r <;> rfl

@[simp] theorem setPair_flags (s : State) (p : Pair) (v : Word) : (s.setPair p v).flags = s.flags := by simp [State.setPair]
@[simp] theorem setPair_sp (s : State) (p : Pair) (v : Word) : (s.setPair p v).sp = s.sp := by simp [State.setPair]
@[simp] theorem setPair_pc (s : State) (p : Pair) (v : Word) : (s.setPair p v).pc = s.pc := by simp [State.setPair]
@[simp] theorem setPair_fault (s : State) (p : Pair) (v : Word) : (s.setPair p v).fault = s.fault := by simp [State.setPair]
@[simp] theorem setPair_mem (s : State) (p : Pair) (v : Word) : (s.setPair p v).mem = s.mem := by simp [State.setPair]
@[simp] theorem setPair_lcd (s : State) (p : Pair) (v : Word) : (s.setPair p v).lcd = s.lcd := by simp [State.setPair]
@[simp] theorem setPair_snd (s : State) (p : Pair) (v : Word) : (s.setPair p v).snd = s.snd := by simp [State.setPair]
@[simp] theorem setPair_steps (s : State) (p : Pair) (v : Word) : (s.setPair p v).steps = s.steps := by simp [State.setPair]

@[simp] theorem setFlags_b (s : State) (f : Flags) : (s.setFlags f).b = s.b := rfl
@[simp] theorem setFlags_c (s : State) (f : Flags) : (s.setFlags f).c = s.c := rfl
@[simp] theorem setFlags_d (s : State) (f : Flags) : (s.setFlags f).d = s.d := rfl
@[simp] theorem setFlags_e (s : State) (f : Flags) : (s.setFlags f).e = s.e := rfl
@[simp] theorem setFlags_h (s : State) (f : Flags) : (s.setFlags f).h = s.h := rfl
@[simp] theorem setFlags_l (s : State) (f : Flags) : (s.setFlags f).l = s.l := rfl
@[simp] theorem setFlags_a (s : State) (f : Flags) : (s.setFlags f).a = s.a := rfl
@[simp] theorem setFlags_flags (s : State) (f : Flags) : (s.setFlags f).flags = f := rfl
@[simp] theorem setFlags_sp (s : State) (f : Flags) : (s.setFlags f).sp = s.sp := rfl
@[simp] theorem setFlags_pc (s : State) (f : Flags) : (s.setFlags f).pc = s.pc := rfl
@[simp] theorem setFlags_fault (s : State) (f : Flags) : (s.setFlags f).fault = s.fault := rfl
@[simp] theorem setFlags_mem (s : State) (f : Flags) : (s.setFlags f).mem = s.mem := rfl
@[simp] theorem setFlags_lcd (s : State) (f : Flags) : (s.setFlags f).lcd = s.lcd := rfl
@[simp] theorem setFlags_snd (s : State) (f : Flags) : (s.setFlags f).snd = s.snd := rfl
@[simp] theorem setFlags_steps (s : State) (f : Flags) : (s.setFlags f).steps = s.steps := rfl

@[simp] theorem setSp_b (s : State) (v : Word) : (s.setSp v).b = s.b := rfl
@[simp] theorem setSp_c (s : State) (v : Word) : (s.setSp v).c = s.c := rfl
@[simp] theorem setSp_d (s : State) (v : Word) : (s.setSp v).d = s.d := rfl
@[simp] theorem setSp_e (s : State) (v : Word) : (s.setSp v).e = s.e := rfl
@[simp] theorem setSp_h (s : State) (v : Word) : (s.setSp v).h = s.h := rfl
@[simp] theorem setSp_l (s : State) (v : Word) : (s.setSp v).l = s.l := rfl
@[simp] theorem setSp_a (s : State) (v : Word) : (s.setSp v).a = s.a := rfl
@[simp] theorem setSp_flags (s : State) (v : Word) : (s.setSp v).flags = s.flags := rfl
@[simp] theorem setSp_sp (s : State) (v : Word) : (s.setSp v).sp = v := rfl
@[simp] theorem setSp_pc (s : State) (v : Word) : (s.setSp v).pc = s.pc := rfl
@[simp] theorem setSp_fault (s : State) (v : Word) : (s.setSp v).fault = s.fault := rfl
@[simp] theorem setSp_mem (s : State) (v : Word) : (s.setSp v).mem = s.mem := rfl
@[simp] theorem setSp_lcd (s : State) (v : Word) : (s.setSp v).lcd = s.lcd := rfl
@[simp] theorem setSp_snd (s : State) (v : Word) : (s.setSp v).snd = s.snd := rfl
@[simp] theorem setSp_steps (s : State) (v : Word) : (s.setSp v).steps = s.steps := rfl

@[simp] theorem setPc_b (s : State) (v : Word) : (s.setPc v).b = s.b := rfl
@[simp] theorem setPc_c (s : State) (v : Word) : (s.setPc v).c = s.c := rfl
@[simp] theorem setPc_d (s : State) (v : Word) : (s.setPc v).d = s.d := rfl
@[simp] theorem setPc_e (s : State) (v : Word) : (s.setPc v).e = s.e := rfl
@[simp] theorem setPc_h (s : State) (v : Word) : (s.setPc v).h = s.h := rfl
@[simp] theorem setPc_l (s : State) (v : Word) : (s.setPc v).l = s.l := rfl
@[simp] theorem setPc_a (s : State) (v : Word) : (s.setPc v).a = s.a := rfl
@[simp] theorem setPc_flags (s : State) (v : Word) : (s.setPc v).flags = s.flags := rfl
@[simp] theorem setPc_sp (s : State) (v : Word) : (s.setPc v).sp = s.sp := rfl
@[simp] theorem setPc_pc (s : State) (v : Word) : (s.setPc v).pc = v := rfl
@[simp] theorem setPc_fault (s : State) (v : Word) : (s.setPc v).fault = s.fault := rfl
@[simp] theorem setPc_mem (s : State) (v : Word) : (s.setPc v).mem = s.mem := rfl
@[simp] theorem setPc_lcd (s : State) (v : Word) : (s.setPc v).lcd = s.lcd := rfl
@[simp] theorem setPc_snd (s : State) (v : Word) : (s.setPc v).snd = s.snd := rfl
@[simp] theorem setPc_steps (s : State) (v : Word) : (s.setPc v).steps = s.steps := rfl

@[simp] theorem advance_b (s : State) (n : Word) : (s.advance n).b = s.b := rfl
@[simp] theorem advance_c (s : State) (n : Word) : (s.advance n).c = s.c := rfl
@[simp] theorem advance_d (s : State) (n : Word) : (s.advance n).d = s.d := rfl
@[simp] theorem advance_e (s : State) (n : Word) : (s.advance n).e = s.e := rfl
@[simp] theorem advance_h (s : State) (n : Word) : (s.advance n).h = s.h := rfl
@[simp] theorem advance_l (s : State) (n : Word) : (s.advance n).l = s.l := rfl
@[simp] theorem advance_a (s : State) (n : Word) : (s.advance n).a = s.a := rfl
@[simp] theorem advance_flags (s : State) (n : Word) : (s.advance n).flags = s.flags := rfl
@[simp] theorem advance_sp (s : State) (n : Word) : (s.advance n).sp = s.sp := rfl
@[simp] theorem advance_pc (s : State) (n : Word) : (s.advance n).pc = s.pc + n := rfl
@[simp] theorem advance_fault (s : State) (n : Word) : (s.advance n).fault = s.fault := rfl
@[simp] theorem advance_mem (s : State) (n : Word) : (s.advance n).mem = s.mem := rfl
@[simp] theorem advance_lcd (s : State) (n : Word) : (s.advance n).lcd = s.lcd := rfl
@[simp] theorem advance_snd (s : State) (n : Word) : (s.advance n).snd = s.snd := rfl
@[simp] theorem advance_steps (s : State) (n : Word) : (s.advance n).steps = s.steps := rfl

@[simp] theorem raise_b (s : State) (r : FaultRecord) : (s.raise r).b = s.b := rfl
@[simp] theorem raise_c (s : State) (r : FaultRecord) : (s.raise r).c = s.c := rfl
@[simp] theorem raise_d (s : State) (r : FaultRecord) : (s.raise r).d = s.d := rfl
@[simp] theorem raise_e (s : State) (r : FaultRecord) : (s.raise r).e = s.e := rfl
@[simp] theorem raise_h (s : State) (r : FaultRecord) : (s.raise r).h = s.h := rfl
@[simp] theorem raise_l (s : State) (r : FaultRecord) : (s.raise r).l = s.l := rfl
@[simp] theorem raise_a (s : State) (r : FaultRecord) : (s.raise r).a = s.a := rfl
@[simp] theorem raise_flags (s : State) (r : FaultRecord) : (s.raise r).flags = s.flags := rfl
@[simp] theorem raise_sp (s : State) (r : FaultRecord) : (s.raise r).sp = s.sp := rfl
@[simp] theorem raise_pc (s : State) (r : FaultRecord) : (s.raise r).pc = s.pc := rfl
@[simp] theorem raise_fault (s : State) (r : FaultRecord) : (s.raise r).fault = some r := rfl
@[simp] theorem raise_mem (s : State) (r : FaultRecord) : (s.raise r).mem = s.mem := rfl
@[simp] theorem raise_lcd (s : State) (r : FaultRecord) : (s.raise r).lcd = s.lcd := rfl
@[simp] theorem raise_snd (s : State) (r : FaultRecord) : (s.raise r).snd = s.snd := rfl
@[simp] theorem raise_steps (s : State) (r : FaultRecord) : (s.raise r).steps = s.steps := rfl

@[simp] theorem stepHl_flags (s : State) (u : HlUse) (addr : Word) : (s.stepHl u addr).flags = s.flags := by cases u <;> simp [State.stepHl]
@[simp] theorem stepHl_sp (s : State) (u : HlUse) (addr : Word) : (s.stepHl u addr).sp = s.sp := by cases u <;> simp [State.stepHl]
@[simp] theorem stepHl_pc (s : State) (u : HlUse) (addr : Word) : (s.stepHl u addr).pc = s.pc := by cases u <;> simp [State.stepHl]
@[simp] theorem stepHl_fault (s : State) (u : HlUse) (addr : Word) : (s.stepHl u addr).fault = s.fault := by cases u <;> simp [State.stepHl]
@[simp] theorem stepHl_mem (s : State) (u : HlUse) (addr : Word) : (s.stepHl u addr).mem = s.mem := by cases u <;> simp [State.stepHl]
@[simp] theorem stepHl_lcd (s : State) (u : HlUse) (addr : Word) : (s.stepHl u addr).lcd = s.lcd := by cases u <;> simp [State.stepHl]
@[simp] theorem stepHl_snd (s : State) (u : HlUse) (addr : Word) : (s.stepHl u addr).snd = s.snd := by cases u <;> simp [State.stepHl]
@[simp] theorem stepHl_steps (s : State) (u : HlUse) (addr : Word) : (s.stepHl u addr).steps = s.steps := by cases u <;> simp [State.stepHl]
@[simp] theorem stepHl_a (s : State) (u : HlUse) (addr : Word) : (s.stepHl u addr).a = s.a := by
  cases u <;> simp [State.stepHl, State.setPair, pairHi, pairLo]

@[simp] theorem settle_b (t : State) : t.settle.b = t.b := by
  unfold State.settle; split <;> rfl
@[simp] theorem settle_c (t : State) : t.settle.c = t.c := by
  unfold State.settle; split <;> rfl
@[simp] theorem settle_d (t : State) : t.settle.d = t.d := by
  unfold State.settle; split <;> rfl
@[simp] theorem settle_e (t : State) : t.settle.e = t.e := by
  unfold State.settle; split <;> rfl
@[simp] theorem settle_h (t : State) : t.settle.h = t.h := by
  unfold State.settle; split <;> rfl
@[simp] theorem settle_l (t : State) : t.settle.l = t.l := by
  unfold State.settle; split <;> rfl
@[simp] theorem settle_a (t : State) : t.settle.a = t.a := by
  unfold State.settle; split <;> rfl
@[simp] theorem settle_flags (t : State) : t.settle.flags = t.flags := by
  unfold State.settle; split <;> rfl
@[simp] theorem settle_sp (t : State) : t.settle.sp = t.sp := by
  unfold State.settle; split <;> rfl
@[simp] theorem settle_pc (t : State) : t.settle.pc = t.pc := by
  unfold State.settle; split <;> rfl
@[simp] theorem settle_fault (t : State) : t.settle.fault = t.fault := by
  unfold State.settle; split <;> simp_all
@[simp] theorem settle_mem (t : State) : t.settle.mem = t.mem := by
  unfold State.settle; split <;> rfl
@[simp] theorem settle_snd (t : State) : t.settle.snd = t.snd := by
  unfold State.settle; split <;> rfl

/-- The settled state when the step raised. -/
theorem settle_of_fault {t : State} (h : t.fault ≠ none) : t.settle = t := by
  unfold State.settle; split <;> simp_all

/-- The settled state when the step committed. -/
theorem settle_of_none {t : State} (h : t.fault = none) :
    t.settle = { t with lcd := t.lcd.run Config.totalLines (Config.lcdSchedule (t.steps + 1)), steps := t.steps + 1 } := by
  unfold State.settle; rw [h]

@[simp] theorem reg8_setFlags (s : State) (f : Flags) (r : Reg8) : (s.setFlags f).reg8 r = s.reg8 r := by cases r <;> rfl
@[simp] theorem pair_setFlags (s : State) (f : Flags) (p : Pair) : (s.setFlags f).pair p = s.pair p := by cases p <;> rfl
@[simp] theorem reg8_setSp (s : State) (v : Word) (r : Reg8) : (s.setSp v).reg8 r = s.reg8 r := by cases r <;> rfl
@[simp] theorem pair_setSp (s : State) (v : Word) (p : Pair) : (s.setSp v).pair p = s.pair p := by cases p <;> rfl
@[simp] theorem reg8_setPc (s : State) (v : Word) (r : Reg8) : (s.setPc v).reg8 r = s.reg8 r := by cases r <;> rfl
@[simp] theorem pair_setPc (s : State) (v : Word) (p : Pair) : (s.setPc v).pair p = s.pair p := by cases p <;> rfl
@[simp] theorem reg8_advance (s : State) (n : Word) (r : Reg8) : (s.advance n).reg8 r = s.reg8 r := by cases r <;> rfl
@[simp] theorem pair_advance (s : State) (n : Word) (p : Pair) : (s.advance n).pair p = s.pair p := by cases p <;> rfl
@[simp] theorem reg8_raise (s : State) (f : FaultRecord) (r : Reg8) : (s.raise f).reg8 r = s.reg8 r := by cases r <;> rfl
@[simp] theorem pair_raise (s : State) (f : FaultRecord) (p : Pair) : (s.raise f).pair p = s.pair p := by cases p <;> rfl

/-- Reading a register after writing one. -/
theorem reg8_setReg8 (s : State) (r q : Reg8) (v : Byte) :
    (s.setReg8 r v).reg8 q = if r = q then v else s.reg8 q := by
  cases r <;> cases q <;> rfl

/-- Writing a register with the value it holds changes nothing. -/
theorem setReg8_self (s : State) (r : Reg8) : s.setReg8 r (s.reg8 r) = s := by cases r <;> rfl

/-- Two states are equal when all their fields are. -/
theorem state_ext {s t : State} (hr : ∀ r, s.reg8 r = t.reg8 r) (hf : s.flags = t.flags) (hsp : s.sp = t.sp)
    (hpc : s.pc = t.pc) (hfault : s.fault = t.fault) (hmem : s.mem = t.mem) (hlcd : s.lcd = t.lcd) (hsnd : s.snd = t.snd)
    (hsteps : s.steps = t.steps) : s = t := by
  have ha := hr .a; have hb := hr .b; have hc := hr .c; have hd := hr .d
  have he := hr .e; have hh := hr .h; have hl := hr .l
  cases s; cases t; simp_all [State.reg8]

end Sys2Proof.Machine
end

