-- ==== Sys2Proof/Laws/Devices.lean ====
section
/-! SUPPORT. What the device operations can do (spec/50_lcd_controller.md, spec/51_sound_controller.md). -/
namespace Sys2Proof.Machine

/-- Everything a successful write of an LCD register can do (R181, R183 to R185). -/
theorem Lcd.write_cases {l l' : Lcd} {addr : Word} {v : Byte} (h : l.write addr v = .ok l') :
    (addr = 0xFF40#16 ∧ l.lcdc.enable = true ∧ v.getLsbD 7 = false ∧ l.mode = .vBlank ∧
      l' = { l with lcdc := lcdcOf v, currentLine := 0 }) ∨
    (addr = 0xFF40#16 ∧ (l.lcdc.enable = false ∨ v.getLsbD 7 = true) ∧ l' = { l with lcdc := lcdcOf v }) ∨
    (addr = 0xFF42#16 ∧ l' = { l with scy := v }) ∨
    (addr = 0xFF43#16 ∧ l' = { l with scx := v }) ∨
    (addr = 0xFF47#16 ∧ l' = { l with palette := paletteOf v }) := by
  unfold Lcd.write Lcd.writeControl at h
  split at h
  · split at h
    · rename_i hc
      rw [Bool.and_eq_true, Bool.not_eq_true'] at hc
      split at h
      · cases h; exact .inl ⟨‹_›, hc.1, hc.2, ‹_›, rfl⟩
      · cases h
    · rename_i hc
      cases h
      refine .inr (.inl ⟨‹_›, ?_, rfl⟩)
      cases he : l.lcdc.enable <;> cases hv : v.getLsbD 7 <;> simp_all
  · split at h
    · cases h; exact .inr (.inr (.inl ⟨‹_›, rfl⟩))
    · split at h
      · cases h; exact .inr (.inr (.inr (.inl ⟨‹_›, rfl⟩)))
      · split at h
        · cases h; exact .inr (.inr (.inr (.inr ⟨‹_›, rfl⟩)))
        · cases h

/-- A write of an LCD register never changes the mode (R183, R190). -/
theorem Lcd.write_mode {l l' : Lcd} {addr : Word} {v : Byte} (h : l.write addr v = .ok l') : l'.mode = l.mode := by
  rcases Lcd.write_cases h with h | h | h | h | h <;> simp_all

/-- A write of an LCD register leaves the line or resets it (R183). -/
theorem Lcd.write_line {l l' : Lcd} {addr : Word} {v : Byte} (h : l.write addr v = .ok l') :
    l'.currentLine = l.currentLine ∨ l'.currentLine = 0 := by
  rcases Lcd.write_cases h with h | h | h | h | h <;> simp_all

/-- Everything a successful write of a sound register can do (R201 to R206). -/
theorem Snd.write_cases {d d' : Snd} {addr : Word} {v : Byte} (h : d.write addr v = .ok d') :
    (addr = 0xFF11#16 ∧ d' = d.writeLenDuty v) ∨ (addr = 0xFF12#16 ∧ d' = d.writeEnvelope v) ∨
    (addr = 0xFF24#16 ∧ d' = d.writeChannelCtrl v) ∨ (addr = 0xFF25#16 ∧ d' = d.writeRouting v) ∨
    (addr = 0xFF26#16 ∧ d' = d.writeMaster v) := by
  unfold Snd.write at h
  split at h
  · cases h; exact .inl ⟨‹_›, rfl⟩
  split at h
  · cases h; exact .inr (.inl ⟨‹_›, rfl⟩)
  split at h
  · cases h; exact .inr (.inr (.inl ⟨‹_›, rfl⟩))
  split at h
  · cases h; exact .inr (.inr (.inr (.inl ⟨‹_›, rfl⟩)))
  split at h
  · cases h; exact .inr (.inr (.inr (.inr ⟨‹_›, rfl⟩)))
  · cases h

/-- No write of a sound register changes the envelope's starting volume (R203). -/
theorem Snd.write_initialVolume {d d' : Snd} {addr : Word} {v : Byte} (h : d.write addr v = .ok d') :
    d'.pulseA.envInitialVolume = d.pulseA.envInitialVolume := by
  rcases Snd.write_cases h with h | h | h | h | h <;> rw [h.2] <;> rfl

/-- A write of a sound register leaves the sound length or sets one of 1 to 64 (R202). -/
theorem Snd.write_length {d d' : Snd} {addr : Word} {v : Byte} (h : d.write addr v = .ok d') :
    d'.pulseA.length = d.pulseA.length ∨ (1 ≤ d'.pulseA.length ∧ d'.pulseA.length ≤ 64) := by
  rcases Snd.write_cases h with h | h | h | h | h
  · have := (v.extractLsb' 0 6).isLt
    right; rw [h.2]; simp only [Snd.writeLenDuty]; omega
  all_goals left; rw [h.2]; rfl

/-- Whether a sound write is accepted, and its fault, depend on the address only (R201, R209). -/
theorem Snd.write_error_iff {d d' : Snd} {addr : Word} {v : Byte} {r : FaultRecord} :
    d.write addr v = .error r ↔ d'.write addr v = .error r := by
  unfold Snd.write; repeat' split
  all_goals simp_all

@[simp] theorem Lcd.run_lcdc (l : Lcd) (total k : Nat) : (l.run total k).lcdc = l.lcdc := rfl
@[simp] theorem Lcd.run_scy (l : Lcd) (total k : Nat) : (l.run total k).scy = l.scy := rfl
@[simp] theorem Lcd.run_scx (l : Lcd) (total k : Nat) : (l.run total k).scx = l.scx := rfl
@[simp] theorem Lcd.run_palette (l : Lcd) (total k : Nat) : (l.run total k).palette = l.palette := rfl

/-- The line stays below `total` under any number of events (R192). -/
theorem lcdEvents_line {total : Nat} (k : Nat) {p : LcdMode × Nat} (h : p.2 < total) :
    (lcdEvents total k p).2 < total := by
  induction k generalizing p with
  | zero => exact h
  | succ k ih =>
    refine ih ?_
    unfold nextLine
    split
    · exact Nat.mod_lt _ (by omega)
    · exact h

end Sys2Proof.Machine
end

