-- ==== Sys2Proof/Laws/Memory.lean ====
section
/-! SUPPORT. Memory in its canonical form: what a write does to later reads, and that every memory operation keeps the form. -/
namespace Sys2Proof.Machine

theorem read_cons (addr k : Nat) (v : Byte) (m : Memory) (h : k = addr → v = Memory.unlisted → m.read k = Memory.unlisted) :
    (Memory.cons addr v m).read k = if addr = k then v else m.read k := by
  unfold Memory.cons
  split
  · by_cases hk : addr = k
    · rw [if_pos hk, h hk.symm ‹_›, ‹v = _›]
    · rw [if_neg hk]
  · rfl

/-- Below the first admitted address a canonical memory lists nothing. -/
theorem read_below {lo k : Nat} {m : Memory} (h : m.wfFrom lo = true) (hk : k < lo) : m.read k = Memory.unlisted := by
  induction m generalizing lo with
  | nil => rfl
  | cons cell rest ih =>
    simp only [Memory.wfFrom, Bool.and_eq_true, decide_eq_true_eq] at h
    rw [Memory.read, if_neg (by omega)]
    exact ih h.2 (by omega)

theorem wfFrom_mono {lo lo' : Nat} {m : Memory} (h : m.wfFrom lo = true) (hl : lo' ≤ lo) : m.wfFrom lo' = true := by
  cases m with
  | nil => rfl
  | cons cell rest =>
    simp only [Memory.wfFrom, Bool.and_eq_true, decide_eq_true_eq] at h ⊢
    exact ⟨⟨by omega, h.1.2⟩, h.2⟩

theorem wfFrom_cons {lo addr : Nat} {v : Byte} {m : Memory} (hm : m.wfFrom (addr + 1) = true) (hl : lo ≤ addr) :
    (Memory.cons addr v m).wfFrom lo = true := by
  unfold Memory.cons
  split
  · exact wfFrom_mono hm (by omega)
  · simp [Memory.wfFrom, hl, hm, ‹¬ v = _›]

theorem wfFrom_write {lo : Nat} {m : Memory} (addr : Nat) (v : Byte) (h : m.wfFrom lo = true) (hl : lo ≤ addr) :
    (m.write addr v).wfFrom lo = true := by
  induction m generalizing lo with
  | nil => exact wfFrom_cons rfl hl
  | cons cell rest ih =>
    obtain ⟨k, w⟩ := cell
    simp only [Memory.wfFrom, Bool.and_eq_true, decide_eq_true_eq] at h
    unfold Memory.write
    split
    · refine wfFrom_cons ?_ hl
      simp only [Memory.wfFrom, Bool.and_eq_true, decide_eq_true_eq]
      exact ⟨⟨by omega, h.1.2⟩, h.2⟩
    · split
      · subst_vars; exact wfFrom_cons h.2 hl
      · simp only [Memory.wfFrom, Bool.and_eq_true, decide_eq_true_eq]
        exact ⟨h.1, ih h.2 (by omega)⟩

/-- A write keeps the canonical form. -/
theorem wf_write {m : Memory} (addr : Nat) (v : Byte) (h : m.wf = true) : (m.write addr v).wf = true :=
  wfFrom_write addr v h (Nat.zero_le _)

theorem read_write_from {lo : Nat} {m : Memory} (addr k : Nat) (v : Byte) (h : m.wfFrom lo = true) :
    (m.write addr v).read k = if addr = k then v else m.read k := by
  induction m generalizing lo with
  | nil => exact read_cons addr k v [] fun _ _ => rfl
  | cons cell rest ih =>
    obtain ⟨j, w⟩ := cell
    have hcell := h
    simp only [Memory.wfFrom, Bool.and_eq_true, decide_eq_true_eq] at h
    unfold Memory.write
    split
    · refine read_cons addr k v _ fun hk _ => ?_
      rw [Memory.read, if_neg (by omega)]
      exact read_below h.2 (by omega)
    · split
      · subst_vars
        rw [read_cons _ _ _ _ fun hk _ => by subst hk; exact read_below h.2 (by omega)]
        by_cases hk : j = k <;> simp [Memory.read, hk]
      · rw [Memory.read, Memory.read, ih h.2]
        by_cases hj : j = k
        · rw [if_pos hj, if_pos hj, if_neg (by omega)]
        · rw [if_neg hj, if_neg hj]

/-- A read after a write: the byte written at its address, the old byte elsewhere. -/
theorem read_write {m : Memory} (addr k : Nat) (v : Byte) (h : m.wf = true) :
    (m.write addr v).read k = if addr = k then v else m.read k := read_write_from addr k v h

/-- Elsewhere a write changes nothing, whatever the form of the memory. -/
theorem read_write_other {m : Memory} {addr k : Nat} (v : Byte) (hk : addr ≠ k) :
    (m.write addr v).read k = m.read k := by
  induction m with
  | nil => simp only [Memory.write, Memory.cons]; split <;> simp [Memory.read, hk]
  | cons cell rest ih =>
    obtain ⟨j, w⟩ := cell
    unfold Memory.write Memory.cons
    split
    · split
      · rfl
      · rw [Memory.read, if_neg hk]
    · split
      · subst_vars
        split <;> simp [Memory.read, hk]
      · simp only [Memory.read, ih]

theorem mem_write {m : Memory} {addr : Nat} {v : Byte} {cell : Host.Cell} (h : cell ∈ m.write addr v) :
    cell.1 = addr ∨ cell ∈ m := by
  induction m with
  | nil =>
    simp only [Memory.write, Memory.cons] at h
    split at h <;> simp_all
  | cons c rest ih =>
    obtain ⟨j, w⟩ := c
    unfold Memory.write Memory.cons at h
    split at h
    · split at h
      · exact .inr h
      · rcases List.mem_cons.mp h with rfl | h
        · exact .inl rfl
        · exact .inr h
    · split at h
      · split at h
        · exact .inr (List.mem_cons_of_mem _ h)
        · rcases List.mem_cons.mp h with rfl | h
          · exact .inl rfl
          · exact .inr (List.mem_cons_of_mem _ h)
      · rcases List.mem_cons.mp h with rfl | h
        · exact .inr List.mem_cons_self
        · exact (ih h).imp_right (List.mem_cons_of_mem _)

/-- A write inside the arrays keeps every cell in the arrays. -/
theorem cellsInArrays_write {m : Memory} {addr : Nat} (v : Byte) (h : CellsInArrays m) (ha : ArrayAddress addr) :
    CellsInArrays (m.write addr v) := fun cell hc => by
  rcases mem_write hc with he | hc
  · exact he ▸ ha
  · exact h cell hc

/-- Canonical memories that read alike are equal data. -/
theorem memory_ext_from {lo : Nat} {m n : Memory} (hm : m.wfFrom lo = true) (hn : n.wfFrom lo = true)
    (h : ∀ k, m.read k = n.read k) : m = n := by
  induction m generalizing lo n with
  | nil =>
    cases n with
    | nil => rfl
    | cons cell rest =>
      simp only [Memory.wfFrom, Bool.and_eq_true, decide_eq_true_eq] at hn
      have := h cell.1
      simp [Memory.read] at this
      exact absurd this.symm hn.1.2
  | cons cell rest ih =>
    obtain ⟨j, w⟩ := cell
    simp only [Memory.wfFrom, Bool.and_eq_true, decide_eq_true_eq] at hm
    cases n with
    | nil =>
      have := h j
      simp [Memory.read] at this
      exact absurd this hm.1.2
    | cons cell' rest' =>
      obtain ⟨j', w'⟩ := cell'
      simp only [Memory.wfFrom, Bool.and_eq_true, decide_eq_true_eq] at hn
      have hj : j = j' := by
        rcases Nat.lt_trichotomy j j' with hlt | heq | hgt
        · have := h j
          rw [Memory.read, if_pos rfl, Memory.read, if_neg (by omega), read_below hn.2 (by omega)] at this
          exact absurd this hm.1.2
        · exact heq
        · have := h j'
          rw [Memory.read, if_neg (by omega), read_below hm.2 (by omega), Memory.read, if_pos rfl] at this
          exact absurd this.symm hn.1.2
      subst hj
      have hw : w = w' := by simpa [Memory.read] using h j
      subst hw
      refine congrArg _ (ih hm.2 hn.2 fun k => ?_)
      by_cases hk : j = k
      · subst hk; rw [read_below hm.2 (by omega), read_below hn.2 (by omega)]
      · simpa [Memory.read, hk] using h k

/-- Canonical memories that read alike are equal data. -/
theorem memory_ext {m n : Memory} (hm : m.wf = true) (hn : n.wf = true) (h : ∀ k, m.read k = n.read k) : m = n :=
  memory_ext_from hm hn h

theorem wfFrom_imageCells (addr : Nat) (vs : List Byte) : (imageCells addr vs).wfFrom addr = true := by
  induction vs generalizing addr with
  | nil => rfl
  | cons v rest ih => exact wfFrom_cons (ih (addr + 1)) (Nat.le_refl _)

/-- An image laid from an address reads as the image, and as unlisted elsewhere. -/
theorem read_imageCells (addr k : Nat) (vs : List Byte) :
    (imageCells addr vs).read k = if addr ≤ k then vs.getD (k - addr) Memory.unlisted else Memory.unlisted := by
  induction vs generalizing addr with
  | nil => simp [imageCells, Memory.read]
  | cons v rest ih =>
    rw [imageCells, read_cons _ _ _ _ fun hk _ => read_below (wfFrom_imageCells _ _) (by omega), ih]
    by_cases hk : addr = k
    · subst hk; simp
    · by_cases hl : addr ≤ k
      · rw [if_neg hk, if_pos (by omega), if_pos hl, show k - addr = (k - (addr + 1)) + 1 by omega, List.getD_cons_succ]
      · rw [if_neg hk, if_neg (by omega), if_neg hl]

theorem cellsInArrays_imageCells (addr : Nat) (vs : List Byte) (h : addr + vs.length ≤ 0x8000) :
    CellsInArrays (imageCells addr vs) := by
  induction vs generalizing addr with
  | nil => intro c hc; cases hc
  | cons v rest ih =>
    simp only [List.length_cons] at h
    have hr := ih (addr + 1) (by omega)
    unfold imageCells Memory.cons
    split
    · exact hr
    · intro c hc
      rcases List.mem_cons.mp hc with rfl | hc
      · exact .inl (by show addr ≤ _; omega)
      · exact hr c hc

/-- The overlay of two images: the boot image first, then the cartridge image (R252). -/
theorem overlayImages_getD (boot cart : List Byte) (i : Nat) (d : Byte) :
    (overlayImages boot cart).getD i d = if i < boot.length then boot.getD i d else cart.getD i d := by
  induction boot generalizing cart i with
  | nil => simp [overlayImages]
  | cons v boot ih =>
    cases cart with
    | nil =>
      cases i with
      | zero => simp [overlayImages]
      | succ i => simpa [overlayImages] using ih [] i
    | cons w cart =>
      cases i with
      | zero => simp [overlayImages]
      | succ i => simpa [overlayImages] using ih cart i

theorem overlayImages_length (boot cart : List Byte) :
    (overlayImages boot cart).length = max boot.length cart.length := by
  induction boot generalizing cart with
  | nil => simp [overlayImages]
  | cons v boot ih => cases cart <;> simp [overlayImages, ih]

end Sys2Proof.Machine
end

