-- ==== Sys2Proof/Laws/Bus.lean ====
section
/-! SUPPORT. What the address decoder can do (spec/20_memory.md R61, R62). -/
namespace Sys2Proof.Machine

/-- The region is one of the four byte arrays. -/
def Region.isArray : Region → Bool
  | .rom | .vram | .wram | .hram => true
  | .sound | .lcd | .unmapped => false

/-- The region is one of the three writable arrays. -/
def Region.isRam : Region → Bool
  | .vram | .wram | .hram => true
  | .rom | .sound | .lcd | .unmapped => false

/-- The rows of the decoder as ranges (R61, R62, R67). -/
theorem regionOf_ranges (addr : Word) :
    (regionOf addr = .rom ↔ addr.toNat ≤ 0x7FFF) ∧
    (regionOf addr = .vram ↔ 0x8000 ≤ addr.toNat ∧ addr.toNat ≤ 0x9FFF) ∧
    (regionOf addr = .wram ↔ 0xC000 ≤ addr.toNat ∧ addr.toNat ≤ 0xDFFF) ∧
    (regionOf addr = .hram ↔ 0xFF80 ≤ addr.toNat ∧ addr.toNat ≤ 0xFFFE) ∧
    (regionOf addr = .sound ↔ 0xFF10 ≤ addr.toNat ∧ addr.toNat ≤ 0xFF3F) ∧
    (regionOf addr = .lcd ↔ 0xFF40 ≤ addr.toNat ∧ addr.toNat ≤ 0xFF4B) ∧
    (regionOf addr = .unmapped ↔ (0xA000 ≤ addr.toNat ∧ addr.toNat ≤ 0xBFFF) ∨
      (0xE000 ≤ addr.toNat ∧ addr.toNat ≤ 0xFF0F) ∨ (0xFF4C ≤ addr.toNat ∧ addr.toNat ≤ 0xFF7F) ∨
      addr.toNat = 0xFFFF) := by
  have := addr.isLt
  unfold regionOf
  repeat' split
  all_goals simp only [reduceCtorEq, true_iff, false_iff]; omega

theorem isArray_iff (addr : Word) : (regionOf addr).isArray = true ↔ ArrayAddress addr.toNat := by
  obtain ⟨h1, h2, h3, h4, h5, h6, h7⟩ := regionOf_ranges addr
  unfold ArrayAddress
  cases h : regionOf addr <;> simp_all [Region.isArray] <;> omega

theorem isRam_iff (addr : Word) : (regionOf addr).isRam = true ↔ RamAddress addr.toNat := by
  obtain ⟨h1, h2, h3, h4, h5, h6, h7⟩ := regionOf_ranges addr
  unfold RamAddress
  cases h : regionOf addr <;> simp_all [Region.isRam]

/-- A read of an array is the byte of memory (R61). -/
theorem memRead_array {s : State} {addr : Word} (h : ArrayAddress addr.toNat) :
    s.memRead addr = .ok (s.mem.read addr.toNat) := by
  have h := (isArray_iff addr).mpr h
  unfold State.memRead
  cases hr : regionOf addr <;> simp_all [Region.isArray]

/-- A write of a RAM replaces the byte of memory (R62). -/
theorem memWrite_ram {s : State} {addr : Word} {v : Byte} (h : RamAddress addr.toNat) :
    s.memWrite addr v = .ok { s with mem := s.mem.write addr.toNat v } := by
  have h := (isRam_iff addr).mpr h
  unfold State.memWrite
  cases hr : regionOf addr <;> simp_all [Region.isRam]

theorem RamAddress.array {addr : Nat} (h : RamAddress addr) : ArrayAddress addr := by
  unfold RamAddress ArrayAddress at *; omega

/-- Everything a successful write of the bus can do (R62). -/
theorem memWrite_cases {s t : State} {addr : Word} {v : Byte} (h : s.memWrite addr v = .ok t) :
    (RamAddress addr.toNat ∧ t = { s with mem := s.mem.write addr.toNat v }) ∨
    (∃ d, s.snd.write addr v = .ok d ∧ t = { s with snd := d }) ∨
    (∃ l, s.lcd.write addr v = .ok l ∧ t = { s with lcd := l }) := by
  have hram := isRam_iff addr
  unfold State.memWrite at h
  split at h
  · cases h
  · cases h; exact .inl ⟨hram.mp (by simp_all [Region.isRam]), rfl⟩
  · cases h; exact .inl ⟨hram.mp (by simp_all [Region.isRam]), rfl⟩
  · cases h; exact .inl ⟨hram.mp (by simp_all [Region.isRam]), rfl⟩
  · cases h
  · split at h <;> cases h
    exact .inr (.inl ⟨_, ‹_›, rfl⟩)
  · split at h <;> cases h
    exact .inr (.inr ⟨_, ‹_›, rfl⟩)

/-- A write of the bus changes memory, the LCD controller and the sound controller only (R62). -/
theorem memWrite_frame {s t : State} {addr : Word} {v : Byte} (h : s.memWrite addr v = .ok t) :
    (∀ r, t.reg8 r = s.reg8 r) ∧ t.flags = s.flags ∧ t.sp = s.sp ∧ t.pc = s.pc ∧ t.fault = s.fault ∧
      t.steps = s.steps := by
  rcases memWrite_cases h with ⟨_, rfl⟩ | ⟨d, _, rfl⟩ | ⟨l, _, rfl⟩ <;>
    exact ⟨fun r => by cases r <;> rfl, rfl, rfl, rfl, rfl, rfl⟩

/-- Whether a read succeeds, and what it gives, depends on memory and the LCD controller only (R61). -/
theorem memRead_congr {s t : State} (hm : s.mem = t.mem) (hl : s.lcd.currentLine = t.lcd.currentLine) (addr : Word) :
    s.memRead addr = t.memRead addr := by
  unfold State.memRead Lcd.read; rw [hm, hl]

/-- A working copy of `s` whose memory and devices were reached by writes of the bus, its latch and step count those of
`s`. -/
inductive BusPath (s : State) : State → Prop
  | same (t : State) (hm : t.mem = s.mem) (hl : t.lcd = s.lcd) (hd : t.snd = s.snd) (hf : t.fault = s.fault)
      (hs : t.steps = s.steps) : BusPath s t
  | write (t u w : State) (addr : Word) (v : Byte) (ht : BusPath s t) (hw : t.memWrite addr v = .ok u) (hm : w.mem = u.mem)
      (hl : w.lcd = u.lcd) (hd : w.snd = u.snd) (hf : w.fault = u.fault) (hs : w.steps = u.steps) : BusPath s w

theorem BusPath.fault {s t : State} (h : BusPath s t) : t.fault = s.fault := by
  induction h with
  | same t hm hl hd hf hs => exact hf
  | write t u w addr v ht hw hm hl hd hf hs ih => rw [hf, (memWrite_frame hw).2.2.2.2.1, ih]

theorem BusPath.steps {s t : State} (h : BusPath s t) : t.steps = s.steps := by
  induction h with
  | same t hm hl hd hf hs => exact hs
  | write t u w addr v ht hw hm hl hd hf hs ih => rw [hs, (memWrite_frame hw).2.2.2.2.2, ih]

/-- A path may end in a copy whose other fields were changed. -/
theorem BusPath.change {s t w : State} (h : BusPath s t) (hm : w.mem = t.mem) (hl : w.lcd = t.lcd) (hd : w.snd = t.snd)
    (hf : w.fault = t.fault) (hs : w.steps = t.steps) : BusPath s w := by
  cases h with
  | same _ hm' hl' hd' hf' hs' => exact .same w (hm.trans hm') (hl.trans hl') (hd.trans hd') (hf.trans hf') (hs.trans hs')
  | write t u _ addr v ht hw hm' hl' hd' hf' hs' =>
    exact .write t u w addr v ht hw (hm.trans hm') (hl.trans hl') (hd.trans hd') (hf.trans hf') (hs.trans hs')

/-- A write of a working copy whose other fields were changed. -/
theorem BusPath.bus {s t u : State} {addr : Word} {v : Byte} (h : BusPath s t) (hw : t.memWrite addr v = .ok u) :
    BusPath s u := .write t u u addr v h hw rfl rfl rfl rfl rfl

theorem BusPath.refl (s : State) : BusPath s s := .same s rfl rfl rfl rfl rfl

end Sys2Proof.Machine
end

