-- ==== Sys2Proof/Laws/Bytes.lean ====
section
/-! SUPPORT. Splitting and joining 16-bit values, and the combined views (spec/10_state.md R23, R25). -/
namespace Sys2Proof

/-- The value of a joined word. -/
theorem joinBytes_toNat (hi lo : Byte) : (joinBytes hi lo).toNat = hi.toNat * 256 + lo.toNat := by
  have h : (joinBytes hi lo).toNat = hi.toNat <<< 8 ||| lo.toNat := BitVec.toNat_append hi lo
  rw [h, Nat.shiftLeft_eq, Nat.mul_comm, ← Nat.two_pow_add_eq_or_of_lt lo.isLt, Nat.mul_comm]

theorem hiByte_toNat (w : Word) : (hiByte w).toNat = w.toNat / 256 := by
  have h := w.isLt
  simp [hiByte, BitVec.extractLsb'_toNat, Nat.shiftRight_eq_div_pow]; omega

theorem loByte_toNat (w : Word) : (loByte w).toNat = w.toNat % 256 := by
  simp [loByte]

@[simp] theorem hiByte_joinBytes (hi lo : Byte) : hiByte (joinBytes hi lo) = hi := by
  have h := lo.isLt
  apply BitVec.eq_of_toNat_eq; rw [hiByte_toNat, joinBytes_toNat]; omega

@[simp] theorem loByte_joinBytes (hi lo : Byte) : loByte (joinBytes hi lo) = lo := by
  have h := lo.isLt
  apply BitVec.eq_of_toNat_eq; rw [loByte_toNat, joinBytes_toNat]; omega

@[simp] theorem joinBytes_hi_lo (w : Word) : joinBytes (hiByte w) (loByte w) = w := by
  apply BitVec.eq_of_toNat_eq; rw [joinBytes_toNat, hiByte_toNat, loByte_toNat]; omega

end Sys2Proof

namespace Sys2Proof.Machine

/-- Reading a combined view after writing one. -/
theorem pair_setPair (s : State) (p q : Pair) (v : Word) :
    (s.setPair p v).pair q = if p = q then v else s.pair q := by
  cases p <;> cases q <;> simp [State.setPair, State.pair, pairHi, pairLo]

/-- Writing a combined view changes its two registers only. -/
theorem reg8_setPair (s : State) (p : Pair) (v : Word) (r : Reg8) :
    (s.setPair p v).reg8 r = if r = pairHi p then hiByte v else if r = pairLo p then loByte v else s.reg8 r := by
  cases p <;> cases r <;> rfl

end Sys2Proof.Machine
end

