-- ==== Sys2Proof/Laws/Decode.lean ====
section
/-! SUPPORT. The decoder, the encoder and the fetch (spec/30_encoding.md R100, R105 to R107). -/
namespace Sys2Proof

/-- The two readings of R107 agree: the patterns of WellFormed and the fields of the secondary table. -/
theorem registeredSecondary_eq (op2 : Byte) : registeredSecondary op2 = (secondary op2).isSome := by
  revert op2; decide

/-- What the decoder can answer on a nonempty list of bytes. -/
theorem decode_cases {op : Byte} {rest rest' : List Byte} {i : Instr} (h : decode (op :: rest) = .ok (i, rest')) :
    (primary op = some (.plain i) ∧ rest' = rest) ∨
    (∃ f n, primary op = some (.imm8 f) ∧ rest = n :: rest' ∧ i = f n) ∨
    (∃ f lo hi, primary op = some (.imm16 f) ∧ rest = lo :: hi :: rest' ∧ i = f (joinBytes hi lo)) ∨
    (∃ op2, primary op = some .secondaryTable ∧ rest = op2 :: rest' ∧ i = prefixed op2) := by
  unfold decode at h
  cases hp : primary op with
  | none => simp [hp] at h
  | some e =>
    cases e with
    | plain j => simp [hp] at h; simp [h]
    | imm8 f =>
      cases rest with
      | nil => simp [hp] at h
      | cons n rest => simp [hp] at h; exact .inr (.inl ⟨f, n, rfl, by rw [h.2], h.1.symm⟩)
    | imm16 f =>
      match rest, h with
      | [], h => simp [hp] at h
      | [_], h => simp [hp] at h
      | lo :: hi :: rest, h =>
        simp [hp] at h; exact .inr (.inr (.inl ⟨f, lo, hi, rfl, by rw [h.2], h.1.symm⟩))
    | secondaryTable =>
      cases rest with
      | nil => simp [hp] at h
      | cons op2 rest => simp [hp] at h; exact .inr (.inr (.inr ⟨op2, rfl, by rw [h.2], h.1.symm⟩))

end Sys2Proof

namespace Sys2Proof.Machine

theorem readBytes_cons {s : State} {n : Nat} {addr : Word} {v : Byte} {vs : List Byte}
    (h : s.readBytes n addr = .ok (v :: vs)) :
    s.memRead addr = .ok v ∧ ∃ m, s.readBytes m (addr + 1#16) = .ok vs := by
  cases n with
  | zero => cases h
  | succ n =>
    unfold State.readBytes at h
    split at h
    · cases h
    · split at h
      · cases h
      · cases h; exact ⟨‹_›, n, ‹_›⟩

/-- The fetch gives the instruction the decoder reads from the bytes at PC (R100). -/
theorem fetch_of_decode {s : State} {n : Nat} {bs rest : List Byte} {i : Instr} (hb : s.readBytes n s.pc = .ok bs)
    (hd : decode bs = .ok (i, rest)) : s.fetch = .ok i := by
  cases bs with
  | nil => cases hd
  | cons op bs =>
    obtain ⟨h0, m, h1⟩ := readBytes_cons hb
    unfold State.fetch
    rcases decode_cases hd with ⟨hp, _⟩ | ⟨f, b, hp, rfl, rfl⟩ | ⟨f, lo, hi, hp, rfl, rfl⟩ | ⟨op2, hp, rfl, rfl⟩
    · simp [h0, hp]
    · simp [h0, hp, (readBytes_cons h1).1]
    · obtain ⟨h1, m', h2⟩ := readBytes_cons h1
      have h2 := (readBytes_cons h2).1
      rw [show s.pc + 1#16 + 1#16 = s.pc + 2#16 by rw [BitVec.add_assoc]; rfl] at h2
      simp [h0, hp, h1, h2]
    · simp [h0, hp, (readBytes_cons h1).1]

end Sys2Proof.Machine
end

