-- ==== Sys2Proof/Laws/Stack.lean ====
section
/-! SUPPORT. What the stack primitives can do (spec/43_jumps_stack.md R163, R164). -/
namespace Sys2Proof.Machine

/-- Everything a successful push can do (R163). -/
theorem push16_cases {s t : State} {v : Word} (h : s.push16 v = .ok t) :
    ∃ u, (s.setSp (s.sp - 1#16)).memWrite (s.sp - 1#16) (hiByte v) = .ok u ∧ u.sp = s.sp - 1#16 ∧
      (u.setSp (s.sp - 2#16)).memWrite (s.sp - 2#16) (loByte v) = .ok t := by
  unfold State.push16 at h
  split at h
  · cases h
  · rename_i u hu
    have hsp : u.sp = s.sp - 1#16 := (memWrite_frame hu).2.2.1
    rw [hsp, show s.sp - 1#16 - 1#16 = s.sp - 2#16 by rw [BitVec.sub_sub]; rfl] at h
    exact ⟨u, hu, hsp, h⟩

/-- A push changes SP, memory and the devices only (R163). -/
theorem push16_frame {s t : State} {v : Word} (h : s.push16 v = .ok t) :
    (∀ r, t.reg8 r = s.reg8 r) ∧ t.flags = s.flags ∧ t.sp = s.sp - 2#16 ∧ t.pc = s.pc ∧ BusPath s t := by
  obtain ⟨u, hu, _, ht⟩ := push16_cases h
  have fu := memWrite_frame hu
  have ft := memWrite_frame ht
  refine ⟨fun r => ?_, ?_, ?_, ?_, ?_⟩
  · rw [ft.1, reg8_setSp, fu.1, reg8_setSp]
  · rw [ft.2.1, setSp_flags, fu.2.1, setSp_flags]
  · rw [ft.2.2.1, setSp_sp]
  · rw [ft.2.2.2.1, setSp_pc, fu.2.2.2.1, setSp_pc]
  · have h1 : BusPath s u := (BusPath.same (s := s) (s.setSp (s.sp - 1#16)) rfl rfl rfl rfl rfl).bus hu
    exact (h1.change (w := u.setSp (s.sp - 2#16)) rfl rfl rfl rfl rfl).bus ht

/-- A push of two bytes that both go to a RAM (R163). -/
theorem push16_ram {s : State} {v : Word} (hhi : RamAddress (s.sp - 1#16).toNat) (hlo : RamAddress (s.sp - 2#16).toNat) :
    s.push16 v = .ok { s with
      sp := s.sp - 2#16,
      mem := (s.mem.write (s.sp - 1#16).toNat (hiByte v)).write (s.sp - 2#16).toNat (loByte v) } := by
  unfold State.push16
  rw [memWrite_ram hhi]
  have h2 : s.sp - 1#16 - 1#16 = s.sp - 2#16 := by rw [BitVec.sub_sub]; rfl
  simp only [State.setSp, h2]
  rw [memWrite_ram hlo]

/-- Everything a successful pop can do (R164). -/
theorem pop16_cases {s t : State} {v : Word} (h : s.pop16 = .ok (v, t)) :
    ∃ lo hi, s.memRead s.sp = .ok lo ∧ s.memRead (s.sp + 1#16) = .ok hi ∧ v = joinBytes hi lo ∧ t = s.setSp (s.sp + 2#16) := by
  unfold State.pop16 at h
  split at h
  · cases h
  · split at h
    · cases h
    · cases h; exact ⟨_, _, ‹_›, ‹_›, rfl, rfl⟩

end Sys2Proof.Machine
end

