-- ==== Sys2Proof/Laws/Exec.lean ====
section
/-! SUPPORT. What an instruction can do, said once: it always answers a next state, which either is the old state with the
latch set or is reached from it by writes of the bus (spec/00_scope.md R9). -/
namespace Sys2Proof.Machine

theorem commit_cases {s t : State} {x : Except FaultRecord State} (h : commit s x = .next t) :
    (∃ r, x = .error r ∧ t = s.raise r) ∨ x = .ok t := by
  unfold commit at h
  split at h
  · cases h; exact .inr rfl
  · cases h; exact .inl ⟨_, rfl, rfl⟩

theorem commit_next (s : State) (x : Except FaultRecord State) : ∃ t, commit s x = .next t := by
  cases x <;> exact ⟨_, rfl⟩

theorem setReg8_path (s : State) (r : Reg8) (v : Byte) : BusPath s (s.setReg8 r v) :=
  .same _ (by simp) (by simp) (by simp) (by simp) (by simp)

theorem incReg_path (r : Reg8) (s : State) : BusPath s (incReg r s) := by
  constructor <;> simp [incReg]

theorem decReg_path (r : Reg8) (s : State) : BusPath s (decReg r s) := by
  constructor <;> simp [decReg]

theorem loadImm8_path (r : Reg8) (n : Byte) (s : State) : BusPath s (loadImm8 r n s) := by
  constructor <;> simp [loadImm8]

theorem loadImmPair_path (p : Pair) (nn : Word) (s : State) : BusPath s (loadImmPair p nn s) := by
  constructor <;> simp [loadImmPair]

theorem loadImmSp_path (nn : Word) (s : State) : BusPath s (loadImmSp nn s) := by
  constructor <;> simp [loadImmSp]

theorem rotateReg_path (r : Reg8) (len : Word) (s : State) : BusPath s (rotateReg r len s) := by
  constructor <;> simp [rotateReg]

theorem xorSelf_path (s : State) : BusPath s (xorSelf s) := by
  constructor <;> simp [xorSelf]

theorem compareImm_path (n : Byte) (s : State) : BusPath s (compareImm n s) := by
  constructor <;> simp [compareImm]

theorem testBit_path (b : BitVec 3) (r : Reg8) (s : State) : BusPath s (testBit b r s) := by
  constructor <;> simp [testBit]

theorem relJump_path (c : Bool) (e : Byte) (s : State) : BusPath s (relJump c e s) := by
  unfold relJump; split <;> constructor <;> simp

/-- Everything a store through HL that commits can do (R142, R144, R146). -/
theorem storeAtHl_cases {u : HlUse} {s t : State} (h : storeAtHl u s = .ok t) :
    ∃ w, s.memWrite (s.pair .hl) s.a = .ok w ∧ t = (w.stepHl u (s.pair .hl)).advance 1#16 := by
  unfold storeAtHl at h
  split at h
  · cases h
  · cases h; exact ⟨_, ‹_›, rfl⟩

/-- Everything a load through HL that commits can do (R143, R145, R147). -/
theorem loadFromHl_cases {u : HlUse} {s t : State} (h : loadFromHl u s = .ok t) :
    ∃ v, s.memRead (s.pair .hl) = .ok v ∧ t = ((s.setReg8 .a v).stepHl u (s.pair .hl)).advance 1#16 := by
  unfold loadFromHl at h
  split at h
  · cases h
  · cases h; exact ⟨_, ‹_›, rfl⟩

theorem storeAtHl_path {u : HlUse} {s t : State} (h : storeAtHl u s = .ok t) : BusPath s t := by
  obtain ⟨w, hw, rfl⟩ := storeAtHl_cases h
  exact ((BusPath.refl s).bus hw).change (by simp) (by simp) (by simp) (by simp) (by simp)

theorem loadFromHl_path {u : HlUse} {s t : State} (h : loadFromHl u s = .ok t) : BusPath s t := by
  obtain ⟨v, _, rfl⟩ := loadFromHl_cases h
  constructor <;> simp

theorem pushPair_path {p : Pair} {s t : State} (h : pushPair p s = .ok t) : BusPath s t := by
  unfold pushPair at h
  split at h
  · cases h
  · cases h; exact (push16_frame ‹_›).2.2.2.2.change (by simp) (by simp) (by simp) (by simp) (by simp)

theorem popPair_path {p : Pair} {s t : State} (h : popPair p s = .ok t) : BusPath s t := by
  unfold popPair at h
  split at h
  · cases h
  · cases h
    obtain ⟨_, _, _, _, _, rfl⟩ := pop16_cases ‹_›
    constructor <;> simp

theorem callTo_path {nn : Word} {s t : State} (h : callTo nn s = .ok t) : BusPath s t := by
  unfold callTo at h
  split at h
  · cases h
  · cases h; exact (push16_frame ‹_›).2.2.2.2.change (by simp) (by simp) (by simp) (by simp) (by simp)

theorem returnToCaller_path {s t : State} (h : returnToCaller s = .ok t) : BusPath s t := by
  unfold returnToCaller at h
  split at h
  · cases h
  · cases h
    obtain ⟨_, _, _, _, _, rfl⟩ := pop16_cases ‹_›
    constructor <;> simp

theorem next_path {s u t : State} (hu : BusPath s u) (h : (Host.Outcome.next u : Result) = .next t) :
    (∃ r, t = s.raise r) ∨ BusPath s t := by
  cases h; exact .inr hu

theorem commit_path {s t : State} {x : Except FaultRecord State} (hx : ∀ u, x = .ok u → BusPath s u)
    (h : commit s x = .next t) : (∃ r, t = s.raise r) ∨ BusPath s t := by
  rcases commit_cases h with ⟨r, _, ht⟩ | hx'
  · exact .inl ⟨r, ht⟩
  · exact .inr (hx t hx')

theorem runSecondary_path {op2 : Byte} {s t : State} (h : runSecondary op2 s = .next t) :
    (∃ r, t = s.raise r) ∨ BusPath s t := by
  unfold runSecondary at h
  split at h
  · exact next_path (rotateReg_path _ _ s) h
  · exact next_path (testBit_path _ _ s) h
  · cases h; exact .inl ⟨_, rfl⟩

/-- Everything an instruction can do to memory, the devices, the latch and the step count. -/
theorem exec_cases {i : Instr} {s t : State} (h : exec i s = .next t) : (∃ r, t = s.raise r) ∨ BusPath s t := by
  cases i with
  | incB | incC | incD | incE | incH | incL | incA => exact next_path (incReg_path _ s) h
  | decB | decC | decD | decE | decH | decL | decA => exact next_path (decReg_path _ s) h
  | ldBImm n | ldCImm n | ldDImm n | ldEImm n | ldHImm n | ldLImm n | ldAImm n => exact next_path (loadImm8_path _ _ s) h
  | ldBcImm nn | ldDeImm nn | ldHlImm nn => exact next_path (loadImmPair_path _ _ s) h
  | ldSpImm nn => exact next_path (loadImmSp_path _ s) h
  | ldHlA | ldHlIncA | ldHlDecA => exact commit_path (fun _ => storeAtHl_path) h
  | ldAHl | ldAHlInc | ldAHlDec => exact commit_path (fun _ => loadFromHl_path) h
  | rla | rlB | rlC | rlD | rlE | rlH | rlL
  | rlA => exact next_path (rotateReg_path _ _ s) h
  | xorA => exact next_path (xorSelf_path s) h
  | cpImm n => exact next_path (compareImm_path _ s) h
  | jr e | jrNz e | jrZ e => exact next_path (relJump_path _ _ s) h
  | pushBc | pushDe | pushHl => exact commit_path (fun _ => pushPair_path) h
  | popBc | popDe | popHl => exact commit_path (fun _ => popPair_path) h
  | call nn => exact commit_path (fun _ => callTo_path) h
  | ret => exact commit_path (fun _ => returnToCaller_path) h
  | prefixCb op2 => exact runSecondary_path h
  | bit0B | bit0C | bit0D | bit0E | bit0H | bit0L | bit0A
  | bit1B | bit1C | bit1D | bit1E | bit1H | bit1L | bit1A
  | bit2B | bit2C | bit2D | bit2E | bit2H | bit2L | bit2A
  | bit3B | bit3C | bit3D | bit3E | bit3H | bit3L | bit3A
  | bit4B | bit4C | bit4D | bit4E | bit4H | bit4L | bit4A
  | bit5B | bit5C | bit5D | bit5E | bit5H | bit5L | bit5A
  | bit6B | bit6C | bit6D | bit6E | bit6H | bit6L | bit6A
  | bit7B | bit7C | bit7D | bit7E | bit7H | bit7L | bit7A => exact next_path (testBit_path _ _ s) h

/-- Everything a further handler that commits can do: it reaches its state by writes of the bus (log entry 4). -/
theorem Handler.run_path {h : Handler} {s w t : State} (hw : BusPath s w) (hr : h.run w = .ok t) : BusPath s t := by
  induction h generalizing w with
  | done => cases hr; exact hw
  | fault r => cases hr
  | fetch k ih =>
    unfold Handler.run at hr
    split at hr
    · cases hr
    · exact ih _ (hw.change (by simp) (by simp) (by simp) (by simp) (by simp)) hr
  | readReg r k ih | readFlags k ih | readSp k ih | readPc k ih => exact ih _ hw hr
  | writeReg r v k ih | writeFlags f k ih | writeSp v k ih | writePc v k ih =>
    exact ih (hw.change (by simp) (by simp) (by simp) (by simp) (by simp)) hr
  | load addr k ih =>
    unfold Handler.run at hr
    split at hr
    · cases hr
    · exact ih _ hw hr
  | store addr v k ih =>
    unfold Handler.run at hr
    split at hr
    · cases hr
    · exact ih (hw.bus ‹_›) hr

/-- A further entry, where one applies, commits its handler's working copy or raises. -/
theorem runExtension_cases {s : State} {ext : ExtHandlers} {r : Result} (h : s.runExtension ext = some r) :
    ∃ (k : Handler) (n : Word), r = commit s (k.run (s.advance n)) := by
  unfold State.runExtension at h
  split at h
  · cases h
  · split at h
    · obtain ⟨k, _, hk⟩ := Option.map_eq_some_iff.1 h; exact ⟨k, _, hk.symm⟩
    · split at h
      · cases h
      · split at h
        · obtain ⟨k, _, hk⟩ := Option.map_eq_some_iff.1 h; exact ⟨k, _, hk.symm⟩
        · cases h
    · cases h

/-- No entry of the empty table applies. -/
@[simp] theorem runExtension_empty (s : State) : s.runExtension ExtHandlers.empty = none := by
  unfold State.runExtension ExtHandlers.empty
  repeat' split
  all_goals rfl

/-- The step with the empty table (R100). -/
theorem step_eq (s : State) : step s =
    match s.fault with
    | some r => .fault (.halted r)
    | none =>
      match s.fetch with
      | .error r => .next (s.raise r)
      | .ok i =>
        match exec i s with
        | .next t => .next t.settle
        | .fault f => .fault f
        | .refused r => .refused r := by
  unfold step stepWith State.dispatch
  rw [runExtension_empty]
  cases s.fault with
  | some r => rfl
  | none =>
    cases s.fetch with
    | error r => simp only; rw [settle_of_fault (by simp)]
    | ok i => rfl

/-- Everything the dispatch of a step can do. -/
theorem dispatch_path {ext : ExtHandlers} {s t : State} (h : s.dispatch ext = .next t) : (∃ r, t = s.raise r) ∨ BusPath s t := by
  unfold State.dispatch at h
  split at h
  · obtain ⟨k, n, rfl⟩ := runExtension_cases ‹_›
    exact commit_path (fun _ hu => Handler.run_path ((BusPath.refl s).change (by simp) (by simp) (by simp) (by simp) (by simp)) hu) h
  · split at h
    · cases h; exact .inl ⟨_, rfl⟩
    · exact exec_cases h

/-- Everything a step can do, whatever the table of further handlers: it raised, or it reached a state by writes of the bus and
the LCD events of the schedule followed (R9, R100, R191). -/
theorem stepWith_cases {ext : ExtHandlers} {s t : State} (h : stepWith ext s = .next t) :
    s.fault = none ∧ ((∃ r, t = s.raise r) ∨ ∃ u, BusPath s u ∧ u.fault = none ∧ t = u.settle) := by
  unfold stepWith at h
  split at h
  · cases h
  · refine ⟨‹_›, ?_⟩
    split at h
    · cases h
      rename_i hx
      rcases dispatch_path hx with ⟨r, rfl⟩ | hp
      · exact .inl ⟨r, settle_of_fault (by simp)⟩
      · exact .inr ⟨_, hp, by rw [hp.fault]; assumption, rfl⟩
    · cases h
    · cases h

/-- `stepWith_cases` for the empty table. -/
theorem step_cases {s t : State} (h : step s = .next t) :
    s.fault = none ∧ ((∃ r, t = s.raise r) ∨ ∃ u, BusPath s u ∧ u.fault = none ∧ t = u.settle) := stepWith_cases h

/-- A property of states that writes of the bus, changes of the registers and LCD events keep, holds after every step, whatever
the table of further handlers (`ExtHandlers.empty` for `step`). -/
theorem stepWith_keeps {P : State → Prop} {ext : ExtHandlers} {s t : State} (hs : P s)
    (hsame : ∀ a b : State, P a → b.mem = a.mem → b.lcd = a.lcd → b.snd = a.snd → P b)
    (hbus : ∀ (a b : State) (addr : Word) (v : Byte), P a → a.memWrite addr v = .ok b → P b)
    (hrun : ∀ (a : State) (k n : Nat), P a → P { a with lcd := a.lcd.run Config.totalLines k, steps := n })
    (h : stepWith ext s = .next t) : P t := by
  have hpath : ∀ u, BusPath s u → P u := fun u hu => by
    induction hu with
    | same u hm hl hd _ _ => exact hsame s u hs hm hl hd
    | write a b w addr v _ hw hm hl hd _ _ ih => exact hsame b w (hbus a b addr v ih hw) hm hl hd
  rcases (stepWith_cases h).2 with ⟨r, rfl⟩ | ⟨u, hu, hf, rfl⟩
  · exact hsame s _ hs rfl rfl rfl
  · rw [settle_of_none hf]; exact hrun u _ _ (hpath u hu)

/-- What holds at power-on and is kept by every step holds of every reachable state. -/
theorem reachable_induction {P : State → Prop} {ext : ExtHandlers}
    (h0 : ∀ aReset boot cart s, State.powerOn aReset boot cart = some s → P s)
    (hstep : ∀ s t, P s → stepWith ext s = .next t → P t) {s : State} (h : Reachable ext s) : P s := by
  induction h with
  | powerOn aReset boot cart s h => exact h0 aReset boot cart s h
  | step s t _ h ih => exact hstep s t ih h

end Sys2Proof.Machine
end

