-- ==== Sys2Proof/Laws/PerInstr.lean ====
section
/-! SUPPORT. For every instruction as syntax: its encoding is a registered opcode byte followed by exactly the bytes that
opcode's format asks for (spec/30_encoding.md R101, R106). -/
namespace Sys2Proof

/-- How many bytes follow an opcode byte (R101). -/
def Entry.operandBytes : Entry → Nat
  | .plain _ => 0
  | .imm8 _ => 1
  | .imm16 _ => 2
  | .secondaryTable => 1

/-- The opcode byte of `i` is registered and its format gives the length of `i`. -/
def Laws.EncodedLength.Statement (i : Instr) : Prop :=
  ∃ op rest e, encode i = op :: rest ∧ primary op = some e ∧ rest.length = e.operandBytes

theorem Laws.EncodedLength.incB : Laws.EncodedLength.Statement .incB := ⟨_, _, _, rfl, rfl, rfl⟩
theorem Laws.EncodedLength.incC : Laws.EncodedLength.Statement .incC := ⟨_, _, _, rfl, rfl, rfl⟩
theorem Laws.EncodedLength.incD : Laws.EncodedLength.Statement .incD := ⟨_, _, _, rfl, rfl, rfl⟩
theorem Laws.EncodedLength.incE : Laws.EncodedLength.Statement .incE := ⟨_, _, _, rfl, rfl, rfl⟩
theorem Laws.EncodedLength.incH : Laws.EncodedLength.Statement .incH := ⟨_, _, _, rfl, rfl, rfl⟩
theorem Laws.EncodedLength.incL : Laws.EncodedLength.Statement .incL := ⟨_, _, _, rfl, rfl, rfl⟩
theorem Laws.EncodedLength.incA : Laws.EncodedLength.Statement .incA := ⟨_, _, _, rfl, rfl, rfl⟩
theorem Laws.EncodedLength.decB : Laws.EncodedLength.Statement .decB := ⟨_, _, _, rfl, rfl, rfl⟩
theorem Laws.EncodedLength.decC : Laws.EncodedLength.Statement .decC := ⟨_, _, _, rfl, rfl, rfl⟩
theorem Laws.EncodedLength.decD : Laws.EncodedLength.Statement .decD := ⟨_, _, _, rfl, rfl, rfl⟩
theorem Laws.EncodedLength.decE : Laws.EncodedLength.Statement .decE := ⟨_, _, _, rfl, rfl, rfl⟩
theorem Laws.EncodedLength.decH : Laws.EncodedLength.Statement .decH := ⟨_, _, _, rfl, rfl, rfl⟩
theorem Laws.EncodedLength.decL : Laws.EncodedLength.Statement .decL := ⟨_, _, _, rfl, rfl, rfl⟩
theorem Laws.EncodedLength.decA : Laws.EncodedLength.Statement .decA := ⟨_, _, _, rfl, rfl, rfl⟩
theorem Laws.EncodedLength.ldBImm (n : Byte) : Laws.EncodedLength.Statement (.ldBImm n) := ⟨_, _, _, rfl, rfl, rfl⟩
theorem Laws.EncodedLength.ldCImm (n : Byte) : Laws.EncodedLength.Statement (.ldCImm n) := ⟨_, _, _, rfl, rfl, rfl⟩
theorem Laws.EncodedLength.ldDImm (n : Byte) : Laws.EncodedLength.Statement (.ldDImm n) := ⟨_, _, _, rfl, rfl, rfl⟩
theorem Laws.EncodedLength.ldEImm (n : Byte) : Laws.EncodedLength.Statement (.ldEImm n) := ⟨_, _, _, rfl, rfl, rfl⟩
theorem Laws.EncodedLength.ldHImm (n : Byte) : Laws.EncodedLength.Statement (.ldHImm n) := ⟨_, _, _, rfl, rfl, rfl⟩
theorem Laws.EncodedLength.ldLImm (n : Byte) : Laws.EncodedLength.Statement (.ldLImm n) := ⟨_, _, _, rfl, rfl, rfl⟩
theorem Laws.EncodedLength.ldAImm (n : Byte) : Laws.EncodedLength.Statement (.ldAImm n) := ⟨_, _, _, rfl, rfl, rfl⟩
theorem Laws.EncodedLength.ldBcImm (nn : Word) : Laws.EncodedLength.Statement (.ldBcImm nn) := ⟨_, _, _, rfl, rfl, rfl⟩
theorem Laws.EncodedLength.ldDeImm (nn : Word) : Laws.EncodedLength.Statement (.ldDeImm nn) := ⟨_, _, _, rfl, rfl, rfl⟩
theorem Laws.EncodedLength.ldHlImm (nn : Word) : Laws.EncodedLength.Statement (.ldHlImm nn) := ⟨_, _, _, rfl, rfl, rfl⟩
theorem Laws.EncodedLength.ldSpImm (nn : Word) : Laws.EncodedLength.Statement (.ldSpImm nn) := ⟨_, _, _, rfl, rfl, rfl⟩
theorem Laws.EncodedLength.ldHlA : Laws.EncodedLength.Statement .ldHlA := ⟨_, _, _, rfl, rfl, rfl⟩
theorem Laws.EncodedLength.ldAHl : Laws.EncodedLength.Statement .ldAHl := ⟨_, _, _, rfl, rfl, rfl⟩
theorem Laws.EncodedLength.ldHlIncA : Laws.EncodedLength.Statement .ldHlIncA := ⟨_, _, _, rfl, rfl, rfl⟩
theorem Laws.EncodedLength.ldAHlInc : Laws.EncodedLength.Statement .ldAHlInc := ⟨_, _, _, rfl, rfl, rfl⟩
theorem Laws.EncodedLength.ldHlDecA : Laws.EncodedLength.Statement .ldHlDecA := ⟨_, _, _, rfl, rfl, rfl⟩
theorem Laws.EncodedLength.ldAHlDec : Laws.EncodedLength.Statement .ldAHlDec := ⟨_, _, _, rfl, rfl, rfl⟩
theorem Laws.EncodedLength.rla : Laws.EncodedLength.Statement .rla := ⟨_, _, _, rfl, rfl, rfl⟩
theorem Laws.EncodedLength.xorA : Laws.EncodedLength.Statement .xorA := ⟨_, _, _, rfl, rfl, rfl⟩
theorem Laws.EncodedLength.cpImm (n : Byte) : Laws.EncodedLength.Statement (.cpImm n) := ⟨_, _, _, rfl, rfl, rfl⟩
theorem Laws.EncodedLength.jr (e : Byte) : Laws.EncodedLength.Statement (.jr e) := ⟨_, _, _, rfl, rfl, rfl⟩
theorem Laws.EncodedLength.jrNz (e : Byte) : Laws.EncodedLength.Statement (.jrNz e) := ⟨_, _, _, rfl, rfl, rfl⟩
theorem Laws.EncodedLength.jrZ (e : Byte) : Laws.EncodedLength.Statement (.jrZ e) := ⟨_, _, _, rfl, rfl, rfl⟩
theorem Laws.EncodedLength.pushBc : Laws.EncodedLength.Statement .pushBc := ⟨_, _, _, rfl, rfl, rfl⟩
theorem Laws.EncodedLength.pushDe : Laws.EncodedLength.Statement .pushDe := ⟨_, _, _, rfl, rfl, rfl⟩
theorem Laws.EncodedLength.pushHl : Laws.EncodedLength.Statement .pushHl := ⟨_, _, _, rfl, rfl, rfl⟩
theorem Laws.EncodedLength.popBc : Laws.EncodedLength.Statement .popBc := ⟨_, _, _, rfl, rfl, rfl⟩
theorem Laws.EncodedLength.popDe : Laws.EncodedLength.Statement .popDe := ⟨_, _, _, rfl, rfl, rfl⟩
theorem Laws.EncodedLength.popHl : Laws.EncodedLength.Statement .popHl := ⟨_, _, _, rfl, rfl, rfl⟩
theorem Laws.EncodedLength.call (nn : Word) : Laws.EncodedLength.Statement (.call nn) := ⟨_, _, _, rfl, rfl, rfl⟩
theorem Laws.EncodedLength.ret : Laws.EncodedLength.Statement .ret := ⟨_, _, _, rfl, rfl, rfl⟩
theorem Laws.EncodedLength.prefixCb (op2 : Byte) : Laws.EncodedLength.Statement (.prefixCb op2) := ⟨_, _, _, rfl, rfl, rfl⟩
theorem Laws.EncodedLength.rlB : Laws.EncodedLength.Statement .rlB := ⟨_, _, _, rfl, rfl, rfl⟩
theorem Laws.EncodedLength.rlC : Laws.EncodedLength.Statement .rlC := ⟨_, _, _, rfl, rfl, rfl⟩
theorem Laws.EncodedLength.rlD : Laws.EncodedLength.Statement .rlD := ⟨_, _, _, rfl, rfl, rfl⟩
theorem Laws.EncodedLength.rlE : Laws.EncodedLength.Statement .rlE := ⟨_, _, _, rfl, rfl, rfl⟩
theorem Laws.EncodedLength.rlH : Laws.EncodedLength.Statement .rlH := ⟨_, _, _, rfl, rfl, rfl⟩
theorem Laws.EncodedLength.rlL : Laws.EncodedLength.Statement .rlL := ⟨_, _, _, rfl, rfl, rfl⟩
theorem Laws.EncodedLength.rlA : Laws.EncodedLength.Statement .rlA := ⟨_, _, _, rfl, rfl, rfl⟩
theorem Laws.EncodedLength.bit0B : Laws.EncodedLength.Statement .bit0B := ⟨_, _, _, rfl, rfl, rfl⟩
theorem Laws.EncodedLength.bit0C : Laws.EncodedLength.Statement .bit0C := ⟨_, _, _, rfl, rfl, rfl⟩
theorem Laws.EncodedLength.bit0D : Laws.EncodedLength.Statement .bit0D := ⟨_, _, _, rfl, rfl, rfl⟩
theorem Laws.EncodedLength.bit0E : Laws.EncodedLength.Statement .bit0E := ⟨_, _, _, rfl, rfl, rfl⟩
theorem Laws.EncodedLength.bit0H : Laws.EncodedLength.Statement .bit0H := ⟨_, _, _, rfl, rfl, rfl⟩
theorem Laws.EncodedLength.bit0L : Laws.EncodedLength.Statement .bit0L := ⟨_, _, _, rfl, rfl, rfl⟩
theorem Laws.EncodedLength.bit0A : Laws.EncodedLength.Statement .bit0A := ⟨_, _, _, rfl, rfl, rfl⟩
theorem Laws.EncodedLength.bit1B : Laws.EncodedLength.Statement .bit1B := ⟨_, _, _, rfl, rfl, rfl⟩
theorem Laws.EncodedLength.bit1C : Laws.EncodedLength.Statement .bit1C := ⟨_, _, _, rfl, rfl, rfl⟩
theorem Laws.EncodedLength.bit1D : Laws.EncodedLength.Statement .bit1D := ⟨_, _, _, rfl, rfl, rfl⟩
theorem Laws.EncodedLength.bit1E : Laws.EncodedLength.Statement .bit1E := ⟨_, _, _, rfl, rfl, rfl⟩
theorem Laws.EncodedLength.bit1H : Laws.EncodedLength.Statement .bit1H := ⟨_, _, _, rfl, rfl, rfl⟩
theorem Laws.EncodedLength.bit1L : Laws.EncodedLength.Statement .bit1L := ⟨_, _, _, rfl, rfl, rfl⟩
theorem Laws.EncodedLength.bit1A : Laws.EncodedLength.Statement .bit1A := ⟨_, _, _, rfl, rfl, rfl⟩
theorem Laws.EncodedLength.bit2B : Laws.EncodedLength.Statement .bit2B := ⟨_, _, _, rfl, rfl, rfl⟩
theorem Laws.EncodedLength.bit2C : Laws.EncodedLength.Statement .bit2C := ⟨_, _, _, rfl, rfl, rfl⟩
theorem Laws.EncodedLength.bit2D : Laws.EncodedLength.Statement .bit2D := ⟨_, _, _, rfl, rfl, rfl⟩
theorem Laws.EncodedLength.bit2E : Laws.EncodedLength.Statement .bit2E := ⟨_, _, _, rfl, rfl, rfl⟩
theorem Laws.EncodedLength.bit2H : Laws.EncodedLength.Statement .bit2H := ⟨_, _, _, rfl, rfl, rfl⟩
theorem Laws.EncodedLength.bit2L : Laws.EncodedLength.Statement .bit2L := ⟨_, _, _, rfl, rfl, rfl⟩
theorem Laws.EncodedLength.bit2A : Laws.EncodedLength.Statement .bit2A := ⟨_, _, _, rfl, rfl, rfl⟩
theorem Laws.EncodedLength.bit3B : Laws.EncodedLength.Statement .bit3B := ⟨_, _, _, rfl, rfl, rfl⟩
theorem Laws.EncodedLength.bit3C : Laws.EncodedLength.Statement .bit3C := ⟨_, _, _, rfl, rfl, rfl⟩
theorem Laws.EncodedLength.bit3D : Laws.EncodedLength.Statement .bit3D := ⟨_, _, _, rfl, rfl, rfl⟩
theorem Laws.EncodedLength.bit3E : Laws.EncodedLength.Statement .bit3E := ⟨_, _, _, rfl, rfl, rfl⟩
theorem Laws.EncodedLength.bit3H : Laws.EncodedLength.Statement .bit3H := ⟨_, _, _, rfl, rfl, rfl⟩
theorem Laws.EncodedLength.bit3L : Laws.EncodedLength.Statement .bit3L := ⟨_, _, _, rfl, rfl, rfl⟩
theorem Laws.EncodedLength.bit3A : Laws.EncodedLength.Statement .bit3A := ⟨_, _, _, rfl, rfl, rfl⟩
theorem Laws.EncodedLength.bit4B : Laws.EncodedLength.Statement .bit4B := ⟨_, _, _, rfl, rfl, rfl⟩
theorem Laws.EncodedLength.bit4C : Laws.EncodedLength.Statement .bit4C := ⟨_, _, _, rfl, rfl, rfl⟩
theorem Laws.EncodedLength.bit4D : Laws.EncodedLength.Statement .bit4D := ⟨_, _, _, rfl, rfl, rfl⟩
theorem Laws.EncodedLength.bit4E : Laws.EncodedLength.Statement .bit4E := ⟨_, _, _, rfl, rfl, rfl⟩
theorem Laws.EncodedLength.bit4H : Laws.EncodedLength.Statement .bit4H := ⟨_, _, _, rfl, rfl, rfl⟩
theorem Laws.EncodedLength.bit4L : Laws.EncodedLength.Statement .bit4L := ⟨_, _, _, rfl, rfl, rfl⟩
theorem Laws.EncodedLength.bit4A : Laws.EncodedLength.Statement .bit4A := ⟨_, _, _, rfl, rfl, rfl⟩
theorem Laws.EncodedLength.bit5B : Laws.EncodedLength.Statement .bit5B := ⟨_, _, _, rfl, rfl, rfl⟩
theorem Laws.EncodedLength.bit5C : Laws.EncodedLength.Statement .bit5C := ⟨_, _, _, rfl, rfl, rfl⟩
theorem Laws.EncodedLength.bit5D : Laws.EncodedLength.Statement .bit5D := ⟨_, _, _, rfl, rfl, rfl⟩
theorem Laws.EncodedLength.bit5E : Laws.EncodedLength.Statement .bit5E := ⟨_, _, _, rfl, rfl, rfl⟩
theorem Laws.EncodedLength.bit5H : Laws.EncodedLength.Statement .bit5H := ⟨_, _, _, rfl, rfl, rfl⟩
theorem Laws.EncodedLength.bit5L : Laws.EncodedLength.Statement .bit5L := ⟨_, _, _, rfl, rfl, rfl⟩
theorem Laws.EncodedLength.bit5A : Laws.EncodedLength.Statement .bit5A := ⟨_, _, _, rfl, rfl, rfl⟩
theorem Laws.EncodedLength.bit6B : Laws.EncodedLength.Statement .bit6B := ⟨_, _, _, rfl, rfl, rfl⟩
theorem Laws.EncodedLength.bit6C : Laws.EncodedLength.Statement .bit6C := ⟨_, _, _, rfl, rfl, rfl⟩
theorem Laws.EncodedLength.bit6D : Laws.EncodedLength.Statement .bit6D := ⟨_, _, _, rfl, rfl, rfl⟩
theorem Laws.EncodedLength.bit6E : Laws.EncodedLength.Statement .bit6E := ⟨_, _, _, rfl, rfl, rfl⟩
theorem Laws.EncodedLength.bit6H : Laws.EncodedLength.Statement .bit6H := ⟨_, _, _, rfl, rfl, rfl⟩
theorem Laws.EncodedLength.bit6L : Laws.EncodedLength.Statement .bit6L := ⟨_, _, _, rfl, rfl, rfl⟩
theorem Laws.EncodedLength.bit6A : Laws.EncodedLength.Statement .bit6A := ⟨_, _, _, rfl, rfl, rfl⟩
theorem Laws.EncodedLength.bit7B : Laws.EncodedLength.Statement .bit7B := ⟨_, _, _, rfl, rfl, rfl⟩
theorem Laws.EncodedLength.bit7C : Laws.EncodedLength.Statement .bit7C := ⟨_, _, _, rfl, rfl, rfl⟩
theorem Laws.EncodedLength.bit7D : Laws.EncodedLength.Statement .bit7D := ⟨_, _, _, rfl, rfl, rfl⟩
theorem Laws.EncodedLength.bit7E : Laws.EncodedLength.Statement .bit7E := ⟨_, _, _, rfl, rfl, rfl⟩
theorem Laws.EncodedLength.bit7H : Laws.EncodedLength.Statement .bit7H := ⟨_, _, _, rfl, rfl, rfl⟩
theorem Laws.EncodedLength.bit7L : Laws.EncodedLength.Statement .bit7L := ⟨_, _, _, rfl, rfl, rfl⟩
theorem Laws.EncodedLength.bit7A : Laws.EncodedLength.Statement .bit7A := ⟨_, _, _, rfl, rfl, rfl⟩

end Sys2Proof
end

