-- ==== Sys2Proof/Tests/Slice0.lean ====
section
/-! SUPPORT. The model's own tests: ill-formed terms, decoding from words written out of spec/30_encoding.md, single
instructions against the vectors of spec/95_test_vectors.md (the vector's name is in each docstring), and for every statement
with hypotheses a state and operands that meet them. -/
namespace Sys2Proof.Tests

open Sys2Proof Sys2Proof.Machine

/-! ## Well-formedness -/

/-- The one check of `Instr.wellFormed` refuses the prefix with a registered second byte: first and last of each pattern. -/
theorem test_wellFormed_refuses : Instr.wellFormed (.prefixCb 0x10#8) = false ∧ Instr.wellFormed (.prefixCb 0x17#8) = false ∧
    Instr.wellFormed (.prefixCb 0x40#8) = false ∧ Instr.wellFormed (.prefixCb 0x7F#8) = false := by decide

/-- The bytes next to the patterns, and code 6 inside them, are well-formed. -/
theorem test_wellFormed_accepts : Instr.wellFormed (.prefixCb 0x0F#8) = true ∧ Instr.wellFormed (.prefixCb 0x16#8) = true ∧
    Instr.wellFormed (.prefixCb 0x18#8) = true ∧ Instr.wellFormed (.prefixCb 0x3F#8) = true ∧
    Instr.wellFormed (.prefixCb 0x46#8) = true ∧ Instr.wellFormed (.prefixCb 0x7E#8) = true ∧
    Instr.wellFormed (.prefixCb 0x80#8) = true ∧ Instr.wellFormed (.ldSpImm 0xFFFF#16) = true := by decide

/-! ## Decoding -/

/-- `00 yyy 100` (R106), yyy the register code of R103. -/
theorem test_decode_inc :
    decode [0b00000100#8] = .ok (.incB, []) ∧
    decode [0b00001100#8] = .ok (.incC, []) ∧
    decode [0b00010100#8] = .ok (.incD, []) ∧
    decode [0b00011100#8] = .ok (.incE, []) ∧
    decode [0b00100100#8] = .ok (.incH, []) ∧
    decode [0b00101100#8] = .ok (.incL, []) ∧
    decode [0b00111100#8] = .ok (.incA, []) := by
  refine ⟨rfl, rfl, rfl, rfl, rfl, rfl, rfl⟩

/-- `00 yyy 101` (R106). -/
theorem test_decode_dec :
    decode [0b00000101#8] = .ok (.decB, []) ∧
    decode [0b00001101#8] = .ok (.decC, []) ∧
    decode [0b00010101#8] = .ok (.decD, []) ∧
    decode [0b00011101#8] = .ok (.decE, []) ∧
    decode [0b00100101#8] = .ok (.decH, []) ∧
    decode [0b00101101#8] = .ok (.decL, []) ∧
    decode [0b00111101#8] = .ok (.decA, []) := by
  refine ⟨rfl, rfl, rfl, rfl, rfl, rfl, rfl⟩

/-- `00 yyy 110` and the immediate (R106, R105). -/
theorem test_decode_ld_imm8 :
    decode [0b00000110#8, 0xA5#8] = .ok (.ldBImm 0xA5#8, []) ∧
    decode [0b00001110#8, 0xA5#8] = .ok (.ldCImm 0xA5#8, []) ∧
    decode [0b00010110#8, 0xA5#8] = .ok (.ldDImm 0xA5#8, []) ∧
    decode [0b00011110#8, 0xA5#8] = .ok (.ldEImm 0xA5#8, []) ∧
    decode [0b00100110#8, 0xA5#8] = .ok (.ldHImm 0xA5#8, []) ∧
    decode [0b00101110#8, 0xA5#8] = .ok (.ldLImm 0xA5#8, []) ∧
    decode [0b00111110#8, 0xA5#8] = .ok (.ldAImm 0xA5#8, []) := by
  refine ⟨rfl, rfl, rfl, rfl, rfl, rfl, rfl⟩

/-- `00 pp0 001`, low byte first (R104 to R106). -/
theorem test_decode_ld_imm16 :
    decode [0b00000001#8, 0x34#8, 0x12#8] = .ok (.ldBcImm 0x1234#16, []) ∧
    decode [0b00010001#8, 0x34#8, 0x12#8] = .ok (.ldDeImm 0x1234#16, []) ∧
    decode [0b00100001#8, 0x34#8, 0x12#8] = .ok (.ldHlImm 0x1234#16, []) ∧
    decode [0b00110001#8, 0x34#8, 0x12#8] = .ok (.ldSpImm 0x1234#16, []) := by
  refine ⟨rfl, rfl, rfl, rfl⟩

/-- The six accesses through HL (R106). -/
theorem test_decode_ld_hl :
    decode [0b01110111#8] = .ok (.ldHlA, []) ∧
    decode [0b01111110#8] = .ok (.ldAHl, []) ∧
    decode [0b00100010#8] = .ok (.ldHlIncA, []) ∧
    decode [0b00101010#8] = .ok (.ldAHlInc, []) ∧
    decode [0b00110010#8] = .ok (.ldHlDecA, []) ∧
    decode [0b00111010#8] = .ok (.ldAHlDec, []) := by
  refine ⟨rfl, rfl, rfl, rfl, rfl, rfl⟩

/-- RLA, XOR A, CP d8 (R106). -/
theorem test_decode_accumulator :
    decode [0b00010111#8] = .ok (.rla, []) ∧
    decode [0b10101111#8] = .ok (.xorA, []) ∧
    decode [0b11111110#8, 0x80#8] = .ok (.cpImm 0x80#8, []) := by
  refine ⟨rfl, rfl, rfl⟩

/-- The relative jumps, the displacement byte as it stands (R106, R105). -/
theorem test_decode_jr :
    decode [0b00011000#8, 0xFE#8] = .ok (.jr 0xFE#8, []) ∧
    decode [0b00100000#8, 0x7F#8] = .ok (.jrNz 0x7F#8, []) ∧
    decode [0b00101000#8, 0x80#8] = .ok (.jrZ 0x80#8, []) := by
  refine ⟨rfl, rfl, rfl⟩

/-- `11 pp0 101`, `11 pp0 001`, CALL with the low byte of the target first, RET (R104 to R106). -/
theorem test_decode_stack :
    decode [0b11000101#8] = .ok (.pushBc, []) ∧
    decode [0b11010101#8] = .ok (.pushDe, []) ∧
    decode [0b11100101#8] = .ok (.pushHl, []) ∧
    decode [0b11000001#8] = .ok (.popBc, []) ∧
    decode [0b11010001#8] = .ok (.popDe, []) ∧
    decode [0b11100001#8] = .ok (.popHl, []) ∧
    decode [0b11001101#8, 0x00#8, 0xC1#8] = .ok (.call 0xC100#16, []) ∧
    decode [0b11001001#8] = .ok (.ret, []) := by
  refine ⟨rfl, rfl, rfl, rfl, rfl, rfl, rfl, rfl⟩

/-- 0xCB, then `00 010 zzz` (R107). -/
theorem test_decode_rl :
    decode [0xCB#8, 0b00010000#8] = .ok (.rlB, []) ∧
    decode [0xCB#8, 0b00010001#8] = .ok (.rlC, []) ∧
    decode [0xCB#8, 0b00010010#8] = .ok (.rlD, []) ∧
    decode [0xCB#8, 0b00010011#8] = .ok (.rlE, []) ∧
    decode [0xCB#8, 0b00010100#8] = .ok (.rlH, []) ∧
    decode [0xCB#8, 0b00010101#8] = .ok (.rlL, []) ∧
    decode [0xCB#8, 0b00010111#8] = .ok (.rlA, []) := by
  refine ⟨rfl, rfl, rfl, rfl, rfl, rfl, rfl⟩

/-- 0xCB, then `01 000 zzz` (R107). -/
theorem test_decode_bit0 :
    decode [0xCB#8, 0b01000000#8] = .ok (.bit0B, []) ∧
    decode [0xCB#8, 0b01000001#8] = .ok (.bit0C, []) ∧
    decode [0xCB#8, 0b01000010#8] = .ok (.bit0D, []) ∧
    decode [0xCB#8, 0b01000011#8] = .ok (.bit0E, []) ∧
    decode [0xCB#8, 0b01000100#8] = .ok (.bit0H, []) ∧
    decode [0xCB#8, 0b01000101#8] = .ok (.bit0L, []) ∧
    decode [0xCB#8, 0b01000111#8] = .ok (.bit0A, []) := by
  refine ⟨rfl, rfl, rfl, rfl, rfl, rfl, rfl⟩

/-- 0xCB, then `01 001 zzz` (R107). -/
theorem test_decode_bit1 :
    decode [0xCB#8, 0b01001000#8] = .ok (.bit1B, []) ∧
    decode [0xCB#8, 0b01001001#8] = .ok (.bit1C, []) ∧
    decode [0xCB#8, 0b01001010#8] = .ok (.bit1D, []) ∧
    decode [0xCB#8, 0b01001011#8] = .ok (.bit1E, []) ∧
    decode [0xCB#8, 0b01001100#8] = .ok (.bit1H, []) ∧
    decode [0xCB#8, 0b01001101#8] = .ok (.bit1L, []) ∧
    decode [0xCB#8, 0b01001111#8] = .ok (.bit1A, []) := by
  refine ⟨rfl, rfl, rfl, rfl, rfl, rfl, rfl⟩

/-- 0xCB, then `01 010 zzz` (R107). -/
theorem test_decode_bit2 :
    decode [0xCB#8, 0b01010000#8] = .ok (.bit2B, []) ∧
    decode [0xCB#8, 0b01010001#8] = .ok (.bit2C, []) ∧
    decode [0xCB#8, 0b01010010#8] = .ok (.bit2D, []) ∧
    decode [0xCB#8, 0b01010011#8] = .ok (.bit2E, []) ∧
    decode [0xCB#8, 0b01010100#8] = .ok (.bit2H, []) ∧
    decode [0xCB#8, 0b01010101#8] = .ok (.bit2L, []) ∧
    decode [0xCB#8, 0b01010111#8] = .ok (.bit2A, []) := by
  refine ⟨rfl, rfl, rfl, rfl, rfl, rfl, rfl⟩

/-- 0xCB, then `01 011 zzz` (R107). -/
theorem test_decode_bit3 :
    decode [0xCB#8, 0b01011000#8] = .ok (.bit3B, []) ∧
    decode [0xCB#8, 0b01011001#8] = .ok (.bit3C, []) ∧
    decode [0xCB#8, 0b01011010#8] = .ok (.bit3D, []) ∧
    decode [0xCB#8, 0b01011011#8] = .ok (.bit3E, []) ∧
    decode [0xCB#8, 0b01011100#8] = .ok (.bit3H, []) ∧
    decode [0xCB#8, 0b01011101#8] = .ok (.bit3L, []) ∧
    decode [0xCB#8, 0b01011111#8] = .ok (.bit3A, []) := by
  refine ⟨rfl, rfl, rfl, rfl, rfl, rfl, rfl⟩

/-- 0xCB, then `01 100 zzz` (R107). -/
theorem test_decode_bit4 :
    decode [0xCB#8, 0b01100000#8] = .ok (.bit4B, []) ∧
    decode [0xCB#8, 0b01100001#8] = .ok (.bit4C, []) ∧
    decode [0xCB#8, 0b01100010#8] = .ok (.bit4D, []) ∧
    decode [0xCB#8, 0b01100011#8] = .ok (.bit4E, []) ∧
    decode [0xCB#8, 0b01100100#8] = .ok (.bit4H, []) ∧
    decode [0xCB#8, 0b01100101#8] = .ok (.bit4L, []) ∧
    decode [0xCB#8, 0b01100111#8] = .ok (.bit4A, []) := by
  refine ⟨rfl, rfl, rfl, rfl, rfl, rfl, rfl⟩

/-- 0xCB, then `01 101 zzz` (R107). -/
theorem test_decode_bit5 :
    decode [0xCB#8, 0b01101000#8] = .ok (.bit5B, []) ∧
    decode [0xCB#8, 0b01101001#8] = .ok (.bit5C, []) ∧
    decode [0xCB#8, 0b01101010#8] = .ok (.bit5D, []) ∧
    decode [0xCB#8, 0b01101011#8] = .ok (.bit5E, []) ∧
    decode [0xCB#8, 0b01101100#8] = .ok (.bit5H, []) ∧
    decode [0xCB#8, 0b01101101#8] = .ok (.bit5L, []) ∧
    decode [0xCB#8, 0b01101111#8] = .ok (.bit5A, []) := by
  refine ⟨rfl, rfl, rfl, rfl, rfl, rfl, rfl⟩

/-- 0xCB, then `01 110 zzz` (R107). -/
theorem test_decode_bit6 :
    decode [0xCB#8, 0b01110000#8] = .ok (.bit6B, []) ∧
    decode [0xCB#8, 0b01110001#8] = .ok (.bit6C, []) ∧
    decode [0xCB#8, 0b01110010#8] = .ok (.bit6D, []) ∧
    decode [0xCB#8, 0b01110011#8] = .ok (.bit6E, []) ∧
    decode [0xCB#8, 0b01110100#8] = .ok (.bit6H, []) ∧
    decode [0xCB#8, 0b01110101#8] = .ok (.bit6L, []) ∧
    decode [0xCB#8, 0b01110111#8] = .ok (.bit6A, []) := by
  refine ⟨rfl, rfl, rfl, rfl, rfl, rfl, rfl⟩

/-- 0xCB, then `01 111 zzz` (R107). -/
theorem test_decode_bit7 :
    decode [0xCB#8, 0b01111000#8] = .ok (.bit7B, []) ∧
    decode [0xCB#8, 0b01111001#8] = .ok (.bit7C, []) ∧
    decode [0xCB#8, 0b01111010#8] = .ok (.bit7D, []) ∧
    decode [0xCB#8, 0b01111011#8] = .ok (.bit7E, []) ∧
    decode [0xCB#8, 0b01111100#8] = .ok (.bit7H, []) ∧
    decode [0xCB#8, 0b01111101#8] = .ok (.bit7L, []) ∧
    decode [0xCB#8, 0b01111111#8] = .ok (.bit7A, []) := by
  refine ⟨rfl, rfl, rfl, rfl, rfl, rfl, rfl⟩

/-- Code 6 is no register: the prefix with an unregistered byte (R103, R107, R108). -/
theorem test_decode_prefix :
    decode [0xCB#8, 0x16#8] = .ok (.prefixCb 0x16#8, []) ∧
    decode [0xCB#8, 0x46#8] = .ok (.prefixCb 0x46#8, []) ∧
    decode [0xCB#8, 0x0F#8] = .ok (.prefixCb 0x0F#8, []) ∧
    decode [0xCB#8, 0x18#8] = .ok (.prefixCb 0x18#8, []) ∧
    decode [0xCB#8, 0x80#8] = .ok (.prefixCb 0x80#8, []) := by
  refine ⟨rfl, rfl, rfl, rfl, rfl⟩

/-- Unregistered primary opcodes are refused by name, and so are too few bytes (R108). -/
theorem test_decode_rejects : decode [0x00#8] = .error (.unregistered 0x00#8) ∧ decode [0x76#8] = .error (.unregistered 0x76#8) ∧
    decode [0x34#8] = .error (.unregistered 0x34#8) ∧ decode [0xF5#8] = .error (.unregistered 0xF5#8) ∧
    decode [0xFF#8] = .error (.unregistered 0xFF#8) ∧ decode [0x3E#8] = .error .truncated ∧
    decode [0x21#8, 0x00#8] = .error .truncated ∧ decode [0xCB#8] = .error .truncated :=
  ⟨rfl, rfl, rfl, rfl, rfl, rfl, rfl, rfl⟩

/-- The table's own numbering: 0xCB7C is `BIT 7,H`, 0xCB alone is a row of 8 bits (R112). -/
theorem test_table_words : decodeTableWord 16 0xCB7C = some .bit7H ∧ decodeTableWord 16 0xCB11 = some .rlC ∧
    decodeTableWord 8 0x3D = some .decA ∧ decodeTableWord 8 0xCD = some (.call 0x0000#16) ∧
    decodeTableWord 8 0xCB = some (.prefixCb 0x00#8) ∧ decodeTableWord 8 0x00 = none := by decide

/-! ## Single instructions -/

/-- The state of the vectors: reset with `A_RESET = 0x01`. -/
def base : State := { State.reset with a := 0x01#8 }

/-- The bytes stored where the state fetches next. -/
def place (s : State) (bs : List Byte) : State := s.hostStore s.pc bs

/-- The instruction in the given bytes run in `s`, without the LCD events that follow a step. -/
def runBytes (s : State) (bs : List Byte) : Result :=
  match (place s bs).fetch with
  | .error r => .next ((place s bs).raise r)
  | .ok i => exec i (place s bs)

/-- V3: the carry flag is kept. -/
theorem test_inc_wraps :
    runBytes { base with b := 0xFF#8, flags := ⟨false, true, false, true⟩ } [0x04#8] =
      .next { place base [0x04#8] with b := 0x00#8, flags := ⟨true, false, true, true⟩, pc := 0x0001#16 } := rfl

/-- V5: no carry into the register's neighbour. -/
theorem test_inc_l :
    runBytes { base with l := 0xFF#8, h := 0x12#8, flags := ⟨false, true, false, false⟩ } [0x2C#8] =
      .next { place base [0x2C#8] with h := 0x12#8, l := 0x00#8, flags := ⟨true, false, true, false⟩, pc := 0x0001#16 } := rfl

/-- V11: half-carry is clear when the old low nibble is zero. -/
theorem test_dec_wraps :
    runBytes { base with b := 0x00#8, flags := ⟨false, false, false, true⟩ } [0x05#8] =
      .next { place base [0x05#8] with b := 0xFF#8, flags := ⟨false, true, false, true⟩, pc := 0x0001#16 } := rfl

/-- V14, T7: half-carry is set when it is not. -/
theorem test_dec_a :
    runBytes { base with a := 0x05#8 } [0x3D#8] =
      .next { place base [0x3D#8] with a := 0x04#8, flags := ⟨false, true, true, false⟩, pc := 0x0001#16 } := rfl

/-- V21: loading zero sets no flag. -/
theorem test_ld_a_zero :
    runBytes { base with flags := ⟨true, true, true, true⟩ } [0x3E#8, 0x00#8] =
      .next { place base [0x3E#8, 0x00#8] with a := 0x00#8, flags := ⟨true, true, true, true⟩, pc := 0x0002#16 } := rfl

/-- V27: the fetch of the immediate faults at 0xFFFF and nothing changes. -/
theorem test_ld_a_operand_fault :
    runBytes { base with pc := 0xFFFE#16 } [0x3E#8] =
      .next { base with pc := 0xFFFE#16, mem := [(0xFFFE, 0x3E#8)], fault := some (.addressFault 0xFFFF#16 .read) } := rfl

/-- V23: the low byte comes first. -/
theorem test_ld_bc :
    runBytes base [0x01#8, 0x34#8, 0x12#8] =
      .next { place base [0x01#8, 0x34#8, 0x12#8] with b := 0x12#8, c := 0x34#8, pc := 0x0003#16 } := rfl

/-- V26. -/
theorem test_ld_sp :
    runBytes base [0x31#8, 0xFE#8, 0xFF#8] = .next { place base [0x31#8, 0xFE#8, 0xFF#8] with sp := 0xFFFE#16, pc := 0x0003#16 } :=
  rfl

/-- V30: a store to ROM. -/
theorem test_store_rom :
    runBytes { base with a := 0x5A#8 } [0x77#8] =
      .next { place base [0x77#8] with a := 0x5A#8, fault := some (.writeProtectFault 0x0000#16 0x5A#8) } := rfl

/-- V31, T6: a store to the palette register. -/
theorem test_store_palette :
    runBytes { base with a := 0xE4#8, h := 0xFF#8, l := 0x47#8 } [0x77#8] =
      .next { place base [0x77#8] with
        a := 0xE4#8, h := 0xFF#8, l := 0x47#8, pc := 0x0001#16,
        lcd := { Lcd.reset with palette := ⟨.white, .lightGray, .darkGray, .black⟩ } } := rfl

/-- V38: the store is at the old HL. -/
theorem test_store_inc :
    runBytes { base with a := 0x77#8, h := 0xDF#8, l := 0xFF#8 } [0x22#8] =
      .next { base with a := 0x77#8, h := 0xE0#8, l := 0x00#8, pc := 0x0001#16, mem := [(0x0000, 0x22#8), (0xDFFF, 0x77#8)] } := rfl

/-- V43, T11: the store is at the old HL. -/
theorem test_store_dec :
    runBytes { base with a := 0x42#8, h := 0x80#8, l := 0x00#8 } [0x32#8] =
      .next { base with a := 0x42#8, h := 0x7F#8, l := 0xFF#8, pc := 0x0001#16, mem := [(0x0000, 0x32#8), (0x8000, 0x42#8)] } := rfl

/-- V34: the current line is read at 0xFF44. -/
theorem test_load_line :
    runBytes { base with a := 0x55#8, h := 0xFF#8, l := 0x44#8, lcd := { Lcd.reset with currentLine := 42 } } [0x7E#8] =
      .next { place base [0x7E#8] with
        a := 0x2A#8, h := 0xFF#8, l := 0x44#8, pc := 0x0001#16, lcd := { Lcd.reset with currentLine := 42 } } := rfl

/-- V42. -/
theorem test_load_inc :
    runBytes { base with h := 0xC0#8, l := 0x10#8, mem := [(0xC010, 0x99#8)] } [0x2A#8] =
      .next { base with a := 0x99#8, h := 0xC0#8, l := 0x11#8, pc := 0x0001#16, mem := [(0x0000, 0x2A#8), (0xC010, 0x99#8)] } := rfl

/-- V46: HL wraps. -/
theorem test_load_dec :
    runBytes base [0x3A#8] = .next { place base [0x3A#8] with a := 0x3A#8, h := 0xFF#8, l := 0xFF#8, pc := 0x0001#16 } := rfl

/-- V50: the zero flag reflects the result. -/
theorem test_rla_zero :
    runBytes { base with a := 0x80#8, flags := ⟨true, true, true, false⟩ } [0x17#8] =
      .next { place base [0x17#8] with a := 0x00#8, flags := ⟨true, false, false, true⟩, pc := 0x0001#16 } := rfl

/-- V55: the carry comes in at bit 0. -/
theorem test_rla_carry_in :
    runBytes { base with a := 0x40#8, flags := ⟨true, true, true, true⟩ } [0x17#8] =
      .next { place base [0x17#8] with a := 0x81#8, flags := ⟨false, false, false, false⟩, pc := 0x0001#16 } := rfl

/-- V56, T8. -/
theorem test_xor_a :
    runBytes { base with a := 0x5A#8, flags := ⟨false, true, true, true⟩ } [0xAF#8] =
      .next { place base [0xAF#8] with a := 0x00#8, flags := ⟨true, false, false, false⟩, pc := 0x0001#16 } := rfl

/-- V59: a borrow from the low nibble only. -/
theorem test_cp_half :
    runBytes { base with a := 0x3C#8 } [0xFE#8, 0x2F#8] =
      .next { place base [0xFE#8, 0x2F#8] with a := 0x3C#8, flags := ⟨false, true, true, false⟩, pc := 0x0002#16 } := rfl

/-- V61: a borrow of the whole byte only. -/
theorem test_cp_carry :
    runBytes { base with a := 0x3C#8 } [0xFE#8, 0x40#8] =
      .next { place base [0xFE#8, 0x40#8] with a := 0x3C#8, flags := ⟨false, true, false, true⟩, pc := 0x0002#16 } := rfl

/-- V72: the displacement is signed and the address wraps. -/
theorem test_jr_back : runBytes base [0x18#8, 0x80#8] = .next { place base [0x18#8, 0x80#8] with pc := 0xFF82#16 } := rfl

/-- V76: PC + 2 wraps before the displacement is added. -/
theorem test_jr_wraps :
    runBytes { base with pc := 0xFFFD#16 } [0x18#8, 0x7C#8] =
      .next { base with pc := 0x007B#16, mem := [(0xFFFD, 0x18#8), (0xFFFE, 0x7C#8)] } := rfl

/-- V80: taken with the zero flag clear. -/
theorem test_jrNz_taken :
    runBytes { base with pc := 0x0010#16 } [0x20#8, 0xFB#8] =
      .next { base with pc := 0x000D#16, mem := [(0x0010, 0x20#8), (0x0011, 0xFB#8)] } := rfl

/-- V79: not taken with the zero flag set. -/
theorem test_jrNz_not_taken :
    runBytes { base with flags := ⟨true, false, false, false⟩ } [0x20#8, 0x05#8] =
      .next { place base [0x20#8, 0x05#8] with flags := ⟨true, false, false, false⟩, pc := 0x0002#16 } := rfl

/-- V81: taken with the zero flag set. -/
theorem test_jrZ_taken :
    runBytes { base with flags := ⟨true, false, false, false⟩ } [0x28#8, 0x05#8] =
      .next { place base [0x28#8, 0x05#8] with flags := ⟨true, false, false, false⟩, pc := 0x0007#16 } := rfl

/-- V85: the high byte lies higher. -/
theorem test_push_bc :
    runBytes { base with sp := 0xFFFE#16, b := 0x12#8, c := 0x34#8 } [0xC5#8] =
      .next { base with sp := 0xFFFC#16, b := 0x12#8, c := 0x34#8, pc := 0x0001#16,
                        mem := [(0x0000, 0xC5#8), (0xFFFC, 0x34#8), (0xFFFD, 0x12#8)] } := rfl

/-- V90: the second write faults and the first is undone. -/
theorem test_push_undone :
    runBytes { base with sp := 0x8001#16, b := 0x12#8, c := 0x34#8 } [0xC5#8] =
      .next { place base [0xC5#8] with
        sp := 0x8001#16, b := 0x12#8, c := 0x34#8, fault := some (.writeProtectFault 0x7FFF#16 0x34#8) } := rfl

/-- V92: the palette byte written first is undone. -/
theorem test_push_device_undone :
    runBytes { base with sp := 0xFF48#16, d := 0xE4#8, e := 0x1B#8 } [0xD5#8] =
      .next { place base [0xD5#8] with
        sp := 0xFF48#16, d := 0xE4#8, e := 0x1B#8,
        fault := some (.protocolViolation 0xFF46#16 .unsupportedRegisterWrite) } := rfl

/-- V94. -/
theorem test_pop_hl :
    runBytes { base with sp := 0xFFFD#16, mem := [(0xFFFD, 0xEF#8), (0xFFFE, 0xBE#8)] } [0xE1#8] =
      .next { base with sp := 0xFFFF#16, h := 0xBE#8, l := 0xEF#8, pc := 0x0001#16,
                        mem := [(0x0000, 0xE1#8), (0xFFFD, 0xEF#8), (0xFFFE, 0xBE#8)] } := rfl

/-- V95: the second read faults and nothing changes. -/
theorem test_pop_fault :
    runBytes { base with sp := 0xFFFE#16, mem := [(0xFFFE, 0x77#8)] } [0xC1#8] =
      .next { base with sp := 0xFFFE#16, mem := [(0x0000, 0xC1#8), (0xFFFE, 0x77#8)],
                        fault := some (.addressFault 0xFFFF#16 .read) } := rfl

/-- V99: the address after the call is pushed. -/
theorem test_call :
    runBytes { base with sp := 0xD000#16, pc := 0x00FE#16 } [0xCD#8, 0x00#8, 0xC0#8] =
      .next { base with sp := 0xCFFE#16, pc := 0xC000#16,
                        mem := [(0x00FE, 0xCD#8), (0x0100, 0xC0#8), (0xCFFE, 0x01#8), (0xCFFF, 0x01#8)] } := rfl

/-- V100: the push of a call faults. -/
theorem test_call_fault :
    runBytes base [0xCD#8, 0x34#8, 0x12#8] =
      .next { place base [0xCD#8, 0x34#8, 0x12#8] with fault := some (.addressFault 0xFFFF#16 .write) } := rfl

/-- V104. -/
theorem test_ret :
    runBytes { base with sp := 0xC000#16, mem := [(0xC000, 0x80#8), (0xC001, 0xFF#8)] } [0xC9#8] =
      .next { base with sp := 0xC002#16, pc := 0xFF80#16, mem := [(0x0000, 0xC9#8), (0xC000, 0x80#8), (0xC001, 0xFF#8)] } := rfl

/-- V105. -/
theorem test_rl_c :
    runBytes { base with c := 0xCE#8, flags := ⟨false, true, true, true⟩ } [0xCB#8, 0x11#8] =
      .next { place base [0xCB#8, 0x11#8] with c := 0x9D#8, flags := ⟨false, false, false, true⟩, pc := 0x0002#16 } := rfl

/-- V112: the carry flag is kept. -/
theorem test_bit_set :
    runBytes { base with h := 0x80#8, flags := ⟨false, true, false, true⟩ } [0xCB#8, 0x7C#8] =
      .next { place base [0xCB#8, 0x7C#8] with h := 0x80#8, flags := ⟨false, false, true, true⟩, pc := 0x0002#16 } := rfl

/-- V117: bit 4 of L is clear. -/
theorem test_bit_clear :
    runBytes { base with l := 0xEF#8 } [0xCB#8, 0x65#8] =
      .next { place base [0xCB#8, 0x65#8] with l := 0xEF#8, flags := ⟨true, false, true, false⟩, pc := 0x0002#16 } := rfl

/-- V121: the record names the address of the prefix. -/
theorem test_prefix_unregistered :
    runBytes base [0xCB#8, 0x16#8] =
      .next { place base [0xCB#8, 0x16#8] with fault := some (.decodeFault .secondary 0x16#8 0x0000#16) } := rfl

/-- V127: the fetch of the second byte faults first. -/
theorem test_prefix_fetch_fault :
    runBytes { base with pc := 0xFFFE#16 } [0xCB#8] =
      .next { base with pc := 0xFFFE#16, mem := [(0xFFFE, 0xCB#8)], fault := some (.addressFault 0xFFFF#16 .read) } := rfl

/-- V129. -/
theorem test_unregistered :
    runBytes { base with pc := 0x0150#16 } [0x76#8] =
      .next { base with pc := 0x0150#16, mem := [(0x0150, 0x76#8)], fault := some (.decodeFault .primary 0x76#8 0x0150#16) } := rfl

/-- F2: the three fetches succeed, then the stack write faults. -/
theorem test_fault_order :
    runBytes { base with pc := 0x7FFE#16 } [0xCD#8] =
      .next { base with pc := 0x7FFE#16, mem := [(0x7FFE, 0xCD#8)], fault := some (.addressFault 0xFFFF#16 .write) } := rfl

/-- F3: the step of a faulted machine. -/
theorem test_latch : step (base.raise (.addressFault 0x0000#16 .read)) = .fault (.halted (.addressFault 0x0000#16 .read)) := rfl

/-- From reset, through the fixed name `withFetchWord`: the word of `BIT 7,H` runs as the first instruction. -/
theorem test_first_step :
    step (State.reset.withFetchWord 16 0xCB7C) =
      .next (State.settle { State.reset.withFetchWord 16 0xCB7C with
        flags := ⟨true, false, true, false⟩, pc := 0x0002#16 }) := rfl

/-! ## Devices -/

/-- L1, L4: disabling the LCD. -/
theorem test_lcd_disable :
    ({ Lcd.reset with lcdc := lcdcOf 0x91#8, currentLine := 77 } : Lcd).write 0xFF40#16 0x11#8 =
      .error (.protocolViolation 0xFF40#16 .lcdDisableOutsideVBlank) ∧
    ({ Lcd.reset with lcdc := lcdcOf 0x91#8, mode := .vBlank, currentLine := 77 } : Lcd).write 0xFF40#16 0x11#8 =
      .ok { Lcd.reset with lcdc := lcdcOf 0x11#8, mode := .vBlank, currentLine := 0 } := ⟨rfl, rfl⟩

/-- L12: the order of the eight flags. -/
theorem test_lcd_control : lcdcOf 0b10100101#8 = ⟨true, false, true, false, false, true, false, true⟩ := by decide

/-- L17. -/
theorem test_palette : paletteOf 0x6C#8 = ⟨.white, .black, .darkGray, .lightGray⟩ := by decide

/-- Section 2.11: nine events from reset, and the wrap of the last line. -/
theorem test_lcd_events : lcdEvents 154 9 (.accessOam, 0) = (.accessVram, 2) ∧
    lcdEvents 154 1 (.vBlank, 153) = (.accessOam, 0) := by decide

/-- S1, S8, S15, S19: the fields of the sound registers. -/
theorem test_sound :
    (Snd.reset.writeLenDuty 0x45#8).pulseA = { Snd.reset.pulseA with duty := .quarter, length := 59 } ∧
    (Snd.reset.writeEnvelope 0x08#8).pulseA = { Snd.reset.pulseA with envDir := .increasing } ∧
    ((Snd.reset.writeChannelCtrl 0xA5#8).mixHi = ⟨2#3, true, 0#4⟩ ∧ (Snd.reset.writeChannelCtrl 0xA5#8).mixLo = ⟨5#3, false, 0#4⟩) ∧
    ((Snd.reset.writeRouting 0x84#8).mixHi = ⟨0#3, false, 8#4⟩ ∧ (Snd.reset.writeRouting 0x84#8).mixLo = ⟨0#3, false, 4#4⟩) := by
  decide

/-! ## The hypotheses of the statements can be met -/

/-- A state with stack and HL in WRAM and with `LD A,0x05` at PC. -/
def ready : State :=
  { base with sp := 0xD000#16, h := 0xC0#8, l := 0x10#8, pc := 0xC000#16, mem := [(0xC000, 0x3E#8), (0xC001, 0x05#8)] }

theorem witness_DecodeOfEncode : Instr.wellFormed (.call 0xFFFF#16) = true ∧ Instr.wellFormed (.prefixCb 0x80#8) = true := by
  decide

theorem witness_DecodeDeterminesBytes : decode [0x21#8, 0xFF#8, 0x00#8, 0xC9#8] = .ok (.ldHlImm 0x00FF#16, [0xC9#8]) := rfl

theorem witness_PrimaryTableIsExact : (0x00#8).toNat ∉ Claims.primaryValues ∧ (0xFF#8).toNat ∉ Claims.primaryValues ∧
    (0x01#8).toNat ∈ Claims.primaryValues ∧ (0xFE#8).toNat ∈ Claims.primaryValues := by decide

theorem witness_SecondaryTableIsExact : ∀ op2 ∈ [0x0F#8, 0x16#8, 0x18#8, 0x3F#8, 0x46#8, 0x7E#8, 0x80#8, 0xFF#8],
    (∀ r ∈ [Reg8.b, .c, .d, .e, .h, .l, .a], op2.toNat ≠ 0x10 + Claims.regCode r) ∧
    (∀ (b : BitVec 3), ∀ r ∈ [Reg8.b, .c, .d, .e, .h, .l, .a], op2.toNat ≠ 0x40 + 8 * b.toNat + Claims.regCode r) := by
  decide

theorem witness_StepRunsDecodedInstruction : ready.fault = none ∧ ready.readBytes 2 ready.pc = .ok [0x3E#8, 0x05#8] ∧
    decode [0x3E#8, 0x05#8] = .ok (.ldAImm 0x05#8, []) ∧
    exec (.ldAImm 0x05#8) ready = .next { ready with a := 0x05#8, pc := 0xC002#16 } := ⟨rfl, rfl, rfl, rfl⟩

/-- The second clause: the instruction raises. -/
theorem witness_StepRunsDecodedInstruction_raised :
    ∃ t, (place base [0x77#8]).fault = none ∧ (place base [0x77#8]).readBytes 1 0x0000#16 = .ok [0x77#8] ∧
      decode [0x77#8] = .ok (.ldHlA, []) ∧ exec .ldHlA (place base [0x77#8]) = .next t ∧ t.fault ≠ none :=
  ⟨_, rfl, rfl, rfl, rfl, by decide⟩

/-- The four clauses: no byte at PC, an unregistered opcode, no second byte, no third byte. -/
theorem witness_FetchRaisesFirstFault :
    ({ base with pc := 0xA000#16 } : State).memRead 0xA000#16 = .error (.addressFault 0xA000#16 .read) ∧
    (base.memRead 0x0000#16 = .ok 0x00#8 ∧ decode [0x00#8] = .error (.unregistered 0x00#8)) ∧
    (({ base with mem := [(0x9FFF, 0x3E#8)] } : State).memRead 0x9FFF#16 = .ok 0x3E#8 ∧ decode [0x3E#8] = .error .truncated ∧
      ({ base with mem := [(0x9FFF, 0x3E#8)] } : State).memRead (0x9FFF#16 + 1#16) = .error (.addressFault 0xA000#16 .read)) ∧
    (({ base with mem := [(0xFFFD, 0x21#8)] } : State).memRead 0xFFFD#16 = .ok 0x21#8 ∧
      ({ base with mem := [(0xFFFD, 0x21#8)] } : State).memRead (0xFFFD#16 + 1#16) = .ok 0x00#8 ∧
      decode [0x21#8, 0x00#8] = .error .truncated ∧
      ({ base with mem := [(0xFFFD, 0x21#8)] } : State).memRead (0xFFFD#16 + 2#16) = .error (.addressFault 0xFFFF#16 .read)) :=
  ⟨rfl, ⟨rfl, rfl⟩, ⟨rfl, rfl, rfl⟩, ⟨rfl, rfl, rfl, rfl⟩⟩

/-- The three clauses: no second byte, an unregistered one, a registered one. -/
theorem witness_PrefixDispatchesInOneStep :
    (∃ s : State, s.fault = none ∧ s.memRead s.pc = .ok 0xCB#8 ∧
      s.memRead (s.pc + 1#16) = .error (.addressFault 0xFFFF#16 .read)) ∧
    (∃ s : State, s.fault = none ∧ s.memRead s.pc = .ok 0xCB#8 ∧ s.memRead (s.pc + 1#16) = .ok 0x16#8 ∧
      registeredSecondary 0x16#8 = false) ∧
    (∃ (s t : State), s.fault = none ∧ s.memRead s.pc = .ok 0xCB#8 ∧ s.memRead (s.pc + 1#16) = .ok 0x7F#8 ∧
      registeredSecondary 0x7F#8 = true ∧ decode [0xCB#8, 0x7F#8] = .ok (.bit7A, []) ∧ exec .bit7A s = .next t) :=
  ⟨⟨{ base with pc := 0xFFFE#16, mem := [(0xFFFE, 0xCB#8)] }, rfl, rfl, rfl⟩,
   ⟨place base [0xCB#8, 0x16#8], rfl, rfl, rfl, rfl⟩, ⟨place base [0xCB#8, 0x7F#8], _, rfl, rfl, rfl, rfl, rfl, rfl⟩⟩

theorem witness_LatchStopsTheMachine :
    (base.raise (.decodeFault .primary 0x00#8 0x0000#16)).fault = some (.decodeFault .primary 0x00#8 0x0000#16) := rfl

/-- A step that commits, a step that raises. -/
theorem witness_StepIsAllOrNothing : (∃ t, step ready = .next t ∧ t.fault = none) ∧ (∃ t, step base = .next t ∧ t.fault ≠ none) :=
  ⟨⟨_, rfl, rfl⟩, ⟨_, rfl, by decide⟩⟩

theorem witness_EveryStepAnswers : State.reset.fault = none := rfl

theorem witness_RegistersAreIndependent : Reg8.h ≠ Reg8.l := by decide

/-- An accepted write at each end of a RAM, and a write that faults. -/
theorem witness_StoreThroughHl :
    (∃ u, ({ base with h := 0x80#8, l := 0x00#8 } : State).memWrite 0x8000#16 base.a = .ok u) ∧
    (∃ u, ({ base with h := 0xFF#8, l := 0xFE#8 } : State).memWrite 0xFFFE#16 base.a = .ok u) ∧
    (base.pair .hl = 0x0000#16 ∧ base.memWrite 0x0000#16 base.a = .error (.writeProtectFault 0x0000#16 0x01#8)) :=
  ⟨⟨_, rfl⟩, ⟨_, rfl⟩, rfl, rfl⟩

theorem witness_StoreThroughHlMemory : ready.mem.wf = true ∧ RamAddress (ready.pair .hl).toNat :=
  ⟨rfl, .inr (.inl (by decide))⟩

/-- The ends of the three RAMs. -/
theorem witness_RamAddress : RamAddress 0x8000 ∧ RamAddress 0x9FFF ∧ RamAddress 0xC000 ∧ RamAddress 0xDFFF ∧ RamAddress 0xFF80 ∧
    RamAddress 0xFFFE ∧ ¬ RamAddress 0x7FFF ∧ ¬ RamAddress 0xA000 ∧ ¬ RamAddress 0xBFFF ∧ ¬ RamAddress 0xE000 ∧
    ¬ RamAddress 0xFF7F ∧ ¬ RamAddress 0xFFFF := by
  unfold RamAddress; omega

/-- A readable HL, and one that is not. -/
theorem witness_LoadThroughHl : ready.memRead (ready.pair .hl) = .ok 0x00#8 ∧
    ({ base with h := 0xFF#8, l := 0xFF#8 } : State).memRead 0xFFFF#16 = .error (.addressFault 0xFFFF#16 .read) := ⟨rfl, rfl⟩

/-- The last byte of HRAM is the opcode, so the byte after it cannot be read. -/
def lastByte (op : Byte) : State := { base with pc := 0xFFFE#16, mem := [(0xFFFE, op)] }

theorem witness_JumpConditional : base.flags.z = false ∧
    ({ base with flags := ⟨true, false, false, false⟩ } : State).flags.z = true ∧
    ((lastByte 0x20#8).fault = none ∧ (lastByte 0x20#8).memRead 0xFFFE#16 = .ok 0x20#8 ∧
      (∀ e, decode [0x20#8, e] = .ok (.jrNz e, [])) ∧
      (lastByte 0x20#8).memRead (0xFFFE#16 + 1#16) = .error (.addressFault 0xFFFF#16 .read)) ∧
    (∀ e, decode [0x28#8, e] = .ok (.jrZ e, [])) := ⟨rfl, rfl, ⟨rfl, rfl, fun _ => rfl, rfl⟩, fun _ => rfl⟩

theorem witness_LoadImmediateByte : (lastByte 0x3E#8).fault = none ∧ (lastByte 0x3E#8).memRead 0xFFFE#16 = .ok 0x3E#8 ∧
    (∀ n, decode [0x3E#8, n] = .ok (Instr.ldImmOf .a n, [])) ∧
    (lastByte 0x3E#8).memRead (0xFFFE#16 + 1#16) = .error (.addressFault 0xFFFF#16 .read) := ⟨rfl, rfl, fun _ => rfl, rfl⟩

theorem witness_CompareResult : (lastByte 0xFE#8).fault = none ∧ (lastByte 0xFE#8).memRead 0xFFFE#16 = .ok 0xFE#8 ∧
    (∀ n, decode [0xFE#8, n] = .ok (.cpImm n, [])) ∧
    (lastByte 0xFE#8).memRead (0xFFFE#16 + 1#16) = .error (.addressFault 0xFFFF#16 .read) := ⟨rfl, rfl, fun _ => rfl, rfl⟩

/-- The three clauses: both writes accepted, the first faults, the second faults (SP 0xFFFF, 0x0000, 0x8001). -/
theorem witness_PushResult :
    (∃ u w, ({ base with sp := 0xFFFF#16 } : State).memWrite (0xFFFF#16 - 1#16) base.b = .ok u ∧
      u.memWrite (0xFFFF#16 - 2#16) base.c = .ok w) ∧
    base.memWrite (0x0000#16 - 1#16) base.b = .error (.addressFault 0xFFFF#16 .write) ∧
    (∃ u, ({ base with sp := 0x8001#16 } : State).memWrite (0x8001#16 - 1#16) base.b = .ok u ∧
      u.memWrite (0x8001#16 - 2#16) base.c = .error (.writeProtectFault 0x7FFF#16 0x00#8)) :=
  ⟨⟨_, _, rfl, rfl⟩, rfl, ⟨_, rfl, rfl⟩⟩

/-- The same three for the call, whose pushed value is PC + 3. -/
theorem witness_CallResult :
    (∃ u w, ready.memWrite (ready.sp - 1#16) (hiByte (ready.pc + 3#16)) = .ok u ∧
      u.memWrite (ready.sp - 2#16) (loByte (ready.pc + 3#16)) = .ok w) ∧
    base.memWrite (base.sp - 1#16) (hiByte (base.pc + 3#16)) = .error (.addressFault 0xFFFF#16 .write) ∧
    (∃ u, ({ base with sp := 0x8001#16 } : State).memWrite (0x8001#16 - 1#16) (hiByte (base.pc + 3#16)) = .ok u ∧
      u.memWrite (0x8001#16 - 2#16) (loByte (base.pc + 3#16)) = .error (.writeProtectFault 0x7FFF#16 0x03#8)) :=
  ⟨⟨_, _, rfl, rfl⟩, rfl, ⟨_, rfl, rfl⟩⟩

/-- For every one of the four instructions; the same state serves PushThenPop and CallThenReturn. -/
theorem witness_PushedBytesAndFrame : ready.mem.wf = true ∧ RamAddress (ready.sp - 1#16).toNat ∧
    RamAddress (ready.sp - 2#16).toNat := ⟨rfl, .inr (.inl (by decide)), .inr (.inl (by decide))⟩

theorem witness_PushThenPop : ready.mem.wf = true ∧ RamAddress (ready.sp - 1#16).toNat ∧ RamAddress (ready.sp - 2#16).toNat :=
  witness_PushedBytesAndFrame

/-- The subroutine of `CallThenReturn` that leaves everything as the call left it. -/
theorem witness_CallThenReturn : (ready.mem.wf = true ∧ RamAddress (ready.sp - 1#16).toNat ∧
      RamAddress (ready.sp - 2#16).toNat) ∧
    ∃ t, exec (.call 0xC100#16) ready = .next t ∧ ∃ w : State, w.sp = t.sp ∧ w.memRead t.sp = t.memRead t.sp ∧
      w.memRead (t.sp + 1#16) = t.memRead (t.sp + 1#16) ∧ w.a ≠ t.a :=
  ⟨witness_PushedBytesAndFrame, _, rfl, { ready with a := 0x77#8, sp := 0xCFFE#16, mem := ready.mem ++ [(0xCFFE, 0x03#8), (0xCFFF, 0xC0#8)] },
    rfl, rfl, rfl, by decide⟩

/-- The three clauses: both bytes readable (from ROM too), the first not, the second not (SP 0xFFFE). -/
theorem witness_PopResult :
    (base.memRead base.sp = .ok 0x00#8 ∧ base.memRead (base.sp + 1#16) = .ok 0x00#8) ∧
    ({ base with sp := 0xFFFF#16 } : State).memRead 0xFFFF#16 = .error (.addressFault 0xFFFF#16 .read) ∧
    (({ base with sp := 0xFFFE#16 } : State).memRead 0xFFFE#16 = .ok 0x00#8 ∧
      ({ base with sp := 0xFFFE#16 } : State).memRead (0xFFFE#16 + 1#16) = .error (.addressFault 0xFFFF#16 .read)) :=
  ⟨⟨rfl, rfl⟩, rfl, rfl, rfl⟩

theorem witness_ReturnResult :
    (base.memRead base.sp = .ok 0x00#8 ∧ base.memRead (base.sp + 1#16) = .ok 0x00#8) ∧
    ({ base with sp := 0xFFFF#16 } : State).memRead 0xFFFF#16 = .error (.addressFault 0xFFFF#16 .read) ∧
    (({ base with sp := 0xFFFE#16 } : State).memRead 0xFFFE#16 = .ok 0x00#8 ∧
      ({ base with sp := 0xFFFE#16 } : State).memRead (0xFFFE#16 + 1#16) = .error (.addressFault 0xFFFF#16 .read)) :=
  witness_PopResult

theorem witness_PrefixMeaning : registeredSecondary 0x16#8 = false ∧ registeredSecondary 0x80#8 = false := by decide

/-- The ends of every row of the decoder's read; the clauses exclude each other. -/
theorem witness_BusReadRows : (∀ a ∈ [0x0000, 0x9FFF, 0xC000, 0xDFFF, 0xFF80, 0xFFFE], ArrayAddress a) ∧
    (∀ a ∈ [0xA000, 0xBFFF, 0xE000, 0xFF0F, 0xFF10, 0xFF3F, 0xFF40, 0xFF44, 0xFF4B, 0xFF4C, 0xFF7F, 0xFFFF], ¬ ArrayAddress a) ∧
    base.memRead 0xA000#16 = .error (.addressFault 0xA000#16 .read) ∧
    base.memRead 0xFFFF#16 = .error (.addressFault 0xFFFF#16 .read) ∧
    base.memRead 0xFF10#16 = .error (.protocolViolation 0xFF10#16 .unsupportedRegisterRead) ∧
    base.memRead 0xFF3F#16 = .error (.protocolViolation 0xFF3F#16 .unsupportedRegisterRead) ∧
    base.memRead 0xFF44#16 = .ok 0x00#8 ∧
    base.memRead 0xFF4B#16 = .error (.protocolViolation 0xFF4B#16 .unsupportedRegisterRead) := by
  refine ⟨by unfold ArrayAddress; decide, by unfold ArrayAddress; decide, rfl, rfl, rfl, rfl, rfl, rfl⟩

/-- The ends of every row of the decoder's write. -/
theorem witness_BusWriteRows :
    base.memWrite 0x7FFF#16 0xA5#8 = .error (.writeProtectFault 0x7FFF#16 0xA5#8) ∧
    base.memWrite 0x8000#16 0xA5#8 = .ok { base with mem := [(0x8000, 0xA5#8)] } ∧
    base.memWrite 0xE000#16 0xA5#8 = .error (.addressFault 0xE000#16 .write) ∧
    base.memWrite 0xFF4C#16 0xA5#8 = .error (.addressFault 0xFF4C#16 .write) ∧
    base.memWrite 0xFF10#16 0xA5#8 = .error (.protocolViolation 0xFF10#16 .unsupportedRegisterWrite) ∧
    base.memWrite 0xFF3F#16 0xA5#8 = .error (.protocolViolation 0xFF3F#16 .unsupportedRegisterWrite) ∧
    base.memWrite 0xFF41#16 0xA5#8 = .error (.protocolViolation 0xFF41#16 .unsupportedRegisterWrite) ∧
    base.memWrite 0xFF44#16 0xA5#8 = .error (.protocolViolation 0xFF44#16 .unsupportedRegisterWrite) ∧
    base.memWrite 0xFF4B#16 0xA5#8 = .error (.protocolViolation 0xFF4B#16 .unsupportedRegisterWrite) :=
  ⟨rfl, rfl, rfl, rfl, rfl, rfl, rfl, rfl, rfl⟩

theorem witness_RamReadAfterWrite : ready.mem.wf = true ∧ RamAddress (0xDFFF#16).toNat ∧ 0xDFFE#16 ≠ 0xDFFF#16 :=
  ⟨rfl, .inr (.inl (by decide)), by decide⟩

/-- A step that stores, next to the last byte of the ROM. -/
theorem witness_RomNeverChanges :
    ∃ t, step (place { base with pc := 0x8100#16, h := 0x80#8, l := 0x00#8 } [0x77#8]) = .next t ∧
      t.mem.read 0x8000 = 0x01#8 ∧ 0x7FFF ≤ 0x7FFF := ⟨_, rfl, rfl, Nat.le_refl _⟩

theorem totalLines_pos : 0 < Config.totalLines := by unfold Config.totalLines Config.visibleLines; omega

theorem witness_StepKeepsInvariant : Inv ready ∧ ∃ t, step ready = .next t :=
  ⟨⟨rfl, by unfold CellsInArrays ArrayAddress; decide, totalLines_pos, by decide⟩, _, rfl⟩

/-- One byte of each image. -/
theorem witness_PowerOnMeetsInvariant : State.powerOn 0x01#8 [0x3E#8] [0x00#8, 0xAF#8] =
    some { base with mem := [(0x0000, 0x3E#8), (0x0001, 0xAF#8)] } := rfl

theorem witness_ReachableLineIsAByte : Reachable ExtHandlers.empty base ∧ ∃ t, step base = .next t ∧ Reachable ExtHandlers.empty t :=
  ⟨.powerOn 0x01#8 [] [] base rfl, _, rfl, .step base _ (.powerOn 0x01#8 [] [] base rfl) rfl⟩

/-- The LCD with the given control byte and mode. -/
def lcdWith (v : Byte) (m : LcdMode) : Lcd := { Lcd.reset with lcdc := lcdcOf v, mode := m, currentLine := 77 }

/-- The three clauses, at the values 0x7F and 0x80 of the written byte; the last one by each of its alternatives. -/
theorem witness_LcdControlWrite :
    ((lcdWith 0x91#8 .hBlank).lcdc.enable = true ∧ (0x7F#8).toNat < 128 ∧ (lcdWith 0x91#8 .hBlank).mode ≠ .vBlank) ∧
    ((lcdWith 0x91#8 .vBlank).lcdc.enable = true ∧ (0x7F#8).toNat < 128 ∧ (lcdWith 0x91#8 .vBlank).mode = .vBlank) ∧
    (lcdWith 0x7F#8 .vBlank).lcdc.enable = false ∧ 128 ≤ (0x80#8).toNat := by decide

/-- One state in each mode. -/
theorem witness_LcdAdvanceRing : Lcd.reset.mode = .accessOam ∧ (Lcd.reset.advance 2).mode = .accessVram ∧
    (Lcd.reset.run 2 2).mode = .hBlank ∧ (Lcd.reset.run 2 3).mode = .vBlank := ⟨rfl, rfl, rfl, rfl⟩

/-- The smallest total, and the last line of the spec's 154. -/
theorem witness_LcdFramePeriod : Lcd.reset.currentLine < 1 ∧ ({ Lcd.reset with currentLine := 153 } : Lcd).currentLine < 154 := by
  decide

/-- A step in VBlank that writes 0x01 to the LCD control register. -/
theorem witness_EnableClearedOnlyInVBlank :
    ∃ s t : State, s.lcd.lcdc.enable = true ∧ step s = .next t ∧ t.lcd.lcdc.enable = false :=
  ⟨place { base with pc := 0xC000#16, h := 0xFF#8, l := 0x40#8, lcd := ⟨lcdcOf 0x80#8, 0#8, 0#8, Lcd.reset.palette, 7, .vBlank⟩ }
    [0x77#8], _, rfl, rfl, rfl⟩

theorem witness_ModeFollowsSchedule : (∃ t, step ready = .next t ∧ t.fault = none) ∧ (∃ t, step base = .next t ∧ t.fault ≠ none) :=
  witness_StepIsAllOrNothing

/-- A step that writes the envelope register. -/
theorem witness_InitialVolumeNeverChanges :
    ∃ t, step (place { base with a := 0xF3#8, pc := 0xC000#16, h := 0xFF#8, l := 0x12#8 } [0x77#8]) = .next t ∧
      t.snd.pulseA.envSteps = 3#3 := ⟨_, rfl, rfl⟩

/-- A step that answers a next state, and one that stops. -/
theorem witness_SoundFieldsAreNotRead : (∃ t, step ready = .next t) ∧
    step (base.raise (.addressFault 0xFFFF#16 .read)) = .fault (.halted (.addressFault 0xFFFF#16 .read)) := ⟨⟨_, rfl⟩, rfl⟩

theorem witness_SubtractAndHalfCarryAreNotRead : ∃ t, step ready = .next t := ⟨_, rfl⟩

/-- Every alternative of the two clauses. -/
theorem witness_FlagFrame :
    (∀ i ∈ [Instr.ldImmOf .a 0x00#8, Instr.ldPairImmOf .hl 0x0000#16, .ldSpImm 0x0000#16, .ldHlA, .ldAHl, .ldHlIncA, .ldAHlInc,
      .ldHlDecA, .ldAHlDec, .ret, .jr 0x00#8, .jrNz 0x00#8, .jrZ 0x00#8, Instr.pushOf .bc, Instr.popOf .de, .call 0x0000#16,
      Instr.incOf .a, Instr.decOf .b, Instr.bitOf 7#3 .h], ∃ t, exec i ready = .next t) := by
  simp only [List.forall_mem_cons]
  refine ⟨⟨_, rfl⟩, ⟨_, rfl⟩, ⟨_, rfl⟩, ⟨_, rfl⟩, ⟨_, rfl⟩, ⟨_, rfl⟩, ⟨_, rfl⟩, ⟨_, rfl⟩, ⟨_, rfl⟩, ⟨_, rfl⟩, ⟨_, rfl⟩, ⟨_, rfl⟩, ⟨_, rfl⟩, ⟨_, rfl⟩, ⟨_, rfl⟩, ⟨_, rfl⟩, ⟨_, rfl⟩, ⟨_, rfl⟩, ⟨_, rfl⟩, ?_⟩
  intro i hi; cases hi

/-- Images of the greatest length, and one byte longer. -/
theorem witness_ImagesAtPowerOn : (List.replicate 0x8000 0x00#8).length ≤ 0x8000 ∧ 0x8000 < (List.replicate 0x8001 0x00#8).length := by
  rw [List.length_replicate, List.length_replicate]; decide

/-- A table with an entry that does nothing at the primary 0x00 and one that stores B through HL at the secondary 0x46. -/
def someTable : ExtHandlers :=
  { primary := fun op => if op = 0x00#8 then some .done else none,
    secondary := fun op2 => if op2 = 0x46#8 then some (.readReg .b fun v => .store 0xC000#16 v (.store 0xA000#16 v .done)) else none }

/-- The entry of 0x00 commits with PC past the opcode (R109); with the empty table the same state raises. -/
theorem test_extension_commits : stepWith someTable base = .next (State.settle { base with pc := 0x0001#16 }) ∧
    step base = .next { base with fault := some (.decodeFault .primary 0x00#8 0x0000#16) } := ⟨rfl, rfl⟩

/-- The second store of the entry of 0xCB 0x46 faults and the first is undone (R9, R221). -/
theorem test_extension_undone : stepWith someTable (place base [0xCB#8, 0x46#8]) =
    .next { place base [0xCB#8, 0x46#8] with fault := some (.addressFault 0xA000#16 .write) } := rfl

/-- Every clause: an unreadable byte at PC, the first and last registered opcode, the prefix with the last registered byte and
with none readable, an opcode with no entry, an entry that commits, one that raises, in either table. -/
theorem witness_ExtensionDispatch :
    ({ base with pc := 0xA000#16 } : State).memRead 0xA000#16 = .error (.addressFault 0xA000#16 .read) ∧
    ((place base [0x01#8]).memRead 0x0000#16 = .ok 0x01#8 ∧ (0x01#8).toNat ∈ Claims.primaryValues) ∧
    ((place base [0xFE#8]).memRead 0x0000#16 = .ok 0xFE#8 ∧ (0xFE#8).toNat ∈ Claims.primaryValues) ∧
    ((place base [0xCB#8, 0x7F#8]).memRead 0x0001#16 = .ok 0x7F#8 ∧ registeredSecondary 0x7F#8 = true) ∧
    ((lastByte 0xCB#8).memRead 0xFFFE#16 = .ok 0xCB#8 ∧
      (lastByte 0xCB#8).memRead (0xFFFE#16 + 1#16) = .error (.addressFault 0xFFFF#16 .read)) ∧
    ((place base [0xFF#8]).memRead 0x0000#16 = .ok 0xFF#8 ∧ (0xFF#8).toNat ∉ Claims.primaryValues ∧ someTable.primary 0xFF#8 = none) ∧
    ((0x00#8).toNat ∉ Claims.primaryValues ∧ someTable.primary 0x00#8 = some .done ∧ Handler.done.run base = .ok base ∧
      (Handler.fault (.addressFault 0xA000#16 .read)).run base = .error (.addressFault 0xA000#16 .read)) ∧
    (registeredSecondary 0x46#8 = false ∧ registeredSecondary 0x80#8 = false ∧ someTable.secondary 0x80#8 = none ∧
      ∃ h, someTable.secondary 0x46#8 = some h ∧ h.run base = .error (.addressFault 0xA000#16 .write)) :=
  ⟨rfl, ⟨rfl, by decide⟩, ⟨rfl, by decide⟩, ⟨rfl, rfl⟩, ⟨rfl, rfl⟩, ⟨rfl, by decide, rfl⟩, ⟨by decide, rfl, rfl, rfl⟩,
   rfl, rfl, rfl, _, rfl, rfl⟩

/-- A step of a further entry that commits, one that raises, from states with the invariant. -/
theorem witness_EveryTableKeepsTheMachine : Inv base ∧ (∃ t, stepWith someTable base = .next t ∧ t.fault = none) ∧
    ∃ t, stepWith someTable (place base [0xCB#8, 0x46#8]) = .next t ∧ t.fault ≠ none :=
  ⟨⟨rfl, (by intro c hc; cases hc), totalLines_pos, by decide⟩, ⟨_, rfl, rfl⟩, ⟨_, rfl, by decide⟩⟩

end Sys2Proof.Tests
end

section
/-! The combined views BC, DE and HL (R23): O13. -/
namespace Sys2Proof.Machine

/-- A combined view weighs its high register by 256 (R23). -/
theorem pair_toNat (s : State) (p : Pair) :
    (s.pair p).toNat = (s.reg8 (pairHi p)).toNat * 256 + (s.reg8 (pairLo p)).toNat :=
  joinBytes_toNat _ _

theorem setPair_bc (s : State) (v : Word) : s.setPair .bc v = { s with b := hiByte v, c := loByte v } := rfl

theorem setPair_de (s : State) (v : Word) : s.setPair .de v = { s with d := hiByte v, e := loByte v } := rfl

theorem setPair_hl (s : State) (v : Word) : s.setPair .hl v = { s with h := hiByte v, l := loByte v } := rfl

@[simp] theorem pair_setPair_same (s : State) (p : Pair) (v : Word) : (s.setPair p v).pair p = v := by
  rw [pair_setPair, if_pos rfl]

@[simp] theorem pair_reset (p : Pair) : State.reset.pair p = 0x0000#16 := by cases p <;> rfl

/-- Settles O13: the value by `joinBytes_toNat`, the written halves by `hiByte_toNat` and `loByte_toNat`, the read back by
`pair_setPair`. -/
theorem pairsAreViews : Obligations.PairsAreViews := by
  intro s v
  exact ⟨pair_toNat s .bc, pair_toNat s .de, pair_toNat s .hl, setPair_bc s v, setPair_de s v, setPair_hl s v,
    hiByte_toNat v, loByte_toNat v, fun p => pair_setPair_same s p v, pair_reset⟩

end Sys2Proof.Machine
end

section
/-! 8-bit increment (R130): O14. -/
namespace Sys2Proof.Machine

/-- `v[3:0]` as arithmetic. -/
@[simp] theorem lowNibble_toNat (v : Byte) : (lowNibble v).toNat = v.toNat % 16 := by
  simp [lowNibble]

/-- Every `INC r` is the one shared increment of its register. -/
theorem exec_incOf (r : Reg8) (s : State) : exec (Instr.incOf r) s = .next (incReg r s) := by
  cases r <;> rfl

/-- The sum of R130 on bytes is the sum on naturals, modulo 256. -/
theorem byte_add_one (v : Byte) : v + 1#8 = BitVec.ofNat 8 (v.toNat + 1) := by
  rw [BitVec.ofNat_add, BitVec.ofNat_toNat, BitVec.setWidth_eq]

/-- The flags of R130 as arithmetic on the old value. -/
theorem incFlags_eq (v : Byte) (f : Flags) : incFlags v f =
    { z := decide ((v.toNat + 1) % 256 = 0), n := false, h := decide (v.toNat % 16 = 15), c := f.c } := by
  have hz : (v + 1#8 == 0#8) = decide ((v.toNat + 1) % 256 = 0) := by
    rw [beq_eq_decide, decide_eq_decide, BitVec.toNat_eq, BitVec.toNat_add]; rfl
  have hh : (lowNibble v == 0xF#4) = decide (v.toNat % 16 = 15) := by
    rw [beq_eq_decide, decide_eq_decide, BitVec.toNat_eq, lowNibble_toNat]; rfl
  rw [incFlags, hz, hh]

/-- The increment as one record update: the register, the flags and PC. -/
theorem incReg_eq (r : Reg8) (s : State) : incReg r s =
    { s.setReg8 r (s.reg8 r + 1#8) with flags := incFlags (s.reg8 r) s.flags, pc := s.pc + 1#16 } := by
  simp only [incReg, State.advance, State.setPc, State.setFlags, setReg8_pc]

/-- Settles O14: the shared increment (`exec_incOf`, `incReg_eq`), its sum (`byte_add_one`) and its flags (`incFlags_eq`) as
arithmetic on the old value. -/
theorem incrementResult : Obligations.IncrementResult := by
  intro r s
  rw [exec_incOf, incReg_eq, incFlags_eq, byte_add_one]

end Sys2Proof.Machine
end

section
/-! 8-bit immediate loads (R140) and the fault of a step's second fetch (R100): O17. -/
namespace Sys2Proof

/-- An instruction of exactly two bytes is not decoded from its first byte alone (R101). -/
theorem decode_first_of_two {op b : Byte} {i : Instr} (h : decode [op, b] = .ok (i, [])) :
    decode [op] = .error .truncated := by
  rcases decode_cases h with ⟨_, hrest⟩ | ⟨f, n, hp, _, _⟩ | ⟨f, lo, hi, _, hrest, _⟩ | ⟨op2, hp, _, _⟩
  · cases hrest
  · simp only [decode, hp]
  · cases hrest
  · simp only [decode, hp]

end Sys2Proof

namespace Sys2Proof.Machine

/-- The fault of the second fetch is the fault of the fetch, for every opcode that wants a further byte (R100). -/
theorem fetch_second_fault {s : State} {op : Byte} {r : FaultRecord} (hop : s.memRead s.pc = .ok op)
    (hmore : decode [op] = .error .truncated) (hr : s.memRead (s.pc + 1#16) = .error r) : s.fetch = .error r := by
  unfold decode at hmore
  cases hp : primary op with
  | none => simp [hp] at hmore
  | some e =>
    cases e with
    | plain i => simp [hp] at hmore
    | imm8 f | imm16 f | secondaryTable => simp only [State.fetch, hop, hp, hr]

/-- A step whose fetch faults changes the latch only (R9, R100). -/
theorem step_of_fetch_fault {s : State} {r : FaultRecord} (hs : s.fault = none) (hf : s.fetch = .error r) :
    step s = .next { s with fault := some r } := by
  rw [step_eq, hs, hf]; rfl

/-- Every `LD r,d8` is the one shared load of its register. -/
theorem exec_ldImmOf (r : Reg8) (n : Byte) (s : State) : exec (Instr.ldImmOf r n) s = .next (loadImm8 r n s) := by
  cases r <;> rfl

/-- The load as one record update: the register and PC. -/
theorem loadImm8_eq (r : Reg8) (n : Byte) (s : State) : loadImm8 r n s = { s.setReg8 r n with pc := s.pc + 2#16 } := by
  simp only [loadImm8, State.advance, State.setPc, setReg8_pc]

/-- Settles O17: the shared load (`exec_ldImmOf`, `loadImm8_eq`), and the fault of the second fetch (`fetch_second_fault`). -/
theorem loadImmediateByte : Obligations.LoadImmediateByte := by
  intro r s
  refine ⟨fun n => ?_, fun op f hs hop hd hf => ?_⟩
  · rw [exec_ldImmOf, loadImm8_eq]
  · have hmore : decode [op] = .error .truncated := decode_first_of_two (hd 0#8)
    exact step_of_fetch_fault hs (fetch_second_fault hop hmore hf)

end Sys2Proof.Machine
end

section
/-! `XOR A` (R151) and `CP d8` (R152): O23 and O24. -/
namespace Sys2Proof.Machine

theorem exec_xorA (s : State) : exec .xorA s = .next (xorSelf s) := rfl

theorem exec_cpImm (n : Byte) (s : State) : exec (.cpImm n) s = .next (compareImm n s) := rfl

/-- `XOR A` as one record update: A, the flags and PC. -/
theorem xorSelf_eq (s : State) : xorSelf s = { s with a := 0x00#8, flags := xorSelfFlags, pc := s.pc + 1#16 } := rfl

/-- The comparison as one record update: the flags and PC. -/
theorem compareImm_eq (n : Byte) (s : State) :
    compareImm n s = { s with flags := compareFlags s.a n, pc := s.pc + 2#16 } := rfl

/-- The flags of R152 as arithmetic on A and the immediate. -/
theorem compareFlags_eq (a n : Byte) : compareFlags a n =
    { z := decide (a = n), n := true, h := decide (a.toNat % 16 < n.toNat % 16), c := decide (a.toNat < n.toNat) } := by
  have hh : lowNibble a < lowNibble n ↔ a.toNat % 16 < n.toNat % 16 := by
    rw [BitVec.lt_def, lowNibble_toNat, lowNibble_toNat]
  simp only [compareFlags, beq_eq_decide, hh, BitVec.lt_def]

/-- Settles O23: A exclusive-or A is zero for every A (`BitVec.xor_self`), the value `xorSelf` writes. -/
theorem xorAResult : Obligations.XorAResult := by
  intro s
  have hzero : s.a ^^^ s.a = 0x00#8 := BitVec.xor_self
  refine ⟨rfl, hzero, ?_⟩
  rw [exec_xorA, xorSelf_eq, hzero, xorSelfFlags]

/-- A step on a two-byte instruction whose second byte faults changes the latch only (R9, R100). -/
theorem step_of_second_byte_fault {s : State} {op b : Byte} {i : Instr} {r : FaultRecord} (hs : s.fault = none)
    (hop : s.memRead s.pc = .ok op) (hd : decode [op, b] = .ok (i, [])) (hr : s.memRead (s.pc + 1#16) = .error r) :
    step s = .next { s with fault := some r } :=
  step_of_fetch_fault hs (fetch_second_fault hop (decode_first_of_two hd) hr)

/-- Settles O24: the comparison (`exec_cpImm`, `compareImm_eq`) with its flags as arithmetic (`compareFlags_eq`), and the fault
of the immediate's fetch (`step_of_second_byte_fault`). -/
theorem compareResult : Obligations.CompareResult := by
  intro s
  refine ⟨fun n => ?_, fun op f hs hop hd hf => step_of_second_byte_fault hs hop (hd 0#8) hf⟩
  rw [exec_cpImm, compareImm_eq, compareFlags_eq]

end Sys2Proof.Machine
end

section
/-! Conditional relative jumps (R161, R162): O26. -/
namespace Sys2Proof.Machine

theorem exec_jrNz (e : Byte) (s : State) : exec (.jrNz e) s = .next (relJump (!s.flags.z) e s) := rfl

theorem exec_jrZ (e : Byte) (s : State) : exec (.jrZ e) s = .next (relJump s.flags.z e s) := rfl

/-- The target of a taken jump as integer arithmetic modulo 65536 (R160). -/
theorem add_displacement_eq_ofInt (pc : Word) (e : Byte) :
    pc + 2#16 + displacement e = BitVec.ofInt 16 (pc.toNat + 2 + e.toInt) := by
  have hbase : BitVec.ofInt 16 (pc.toNat + 2) = pc + 2#16 := by
    rw [BitVec.ofInt_add, BitVec.ofInt_natCast, BitVec.ofNat_toNat, BitVec.setWidth_eq]; rfl
  rw [BitVec.ofInt_add, hbase]; rfl

/-- A taken jump as one record update. -/
theorem relJump_taken (e : Byte) (s : State) :
    relJump true e s = { s with pc := BitVec.ofInt 16 (s.pc.toNat + 2 + e.toInt) } := by
  rw [← add_displacement_eq_ofInt]; rfl

/-- A jump not taken only passes its displacement byte. -/
theorem relJump_not_taken (e : Byte) (s : State) : relJump false e s = { s with pc := s.pc + 2#16 } := rfl

/-- Settles O26: the two conditions are the zero flag and its negation (`exec_jrNz`, `exec_jrZ`), each outcome is `relJump_taken`
or `relJump_not_taken`, and the displacement's fetch faults before the condition is looked at (`step_of_second_byte_fault`). -/
theorem jumpConditional : Obligations.JumpConditional := by
  intro s
  refine ⟨fun e hz => ?_, fun e hz => ?_, fun op f hs hop hd hf => ?_⟩
  · rw [exec_jrNz, exec_jrZ, hz, Bool.not_false, relJump_taken, relJump_not_taken]
    exact ⟨rfl, rfl⟩
  · rw [exec_jrNz, exec_jrZ, hz, Bool.not_true, relJump_taken, relJump_not_taken]
    exact ⟨rfl, rfl⟩
  · rcases hd with hNz | hZ
    · exact step_of_second_byte_fault hs hop (hNz 0#8) hf
    · exact step_of_second_byte_fault hs hop (hZ 0#8) hf

end Sys2Proof.Machine
end

section
/-! `PREFIX CB` in a step (R170): O8. -/
namespace Sys2Proof

/-- `PREFIX CB` sends its second byte to the secondary table (R101). -/
theorem decode_prefixed (op2 : Byte) (rest : List Byte) : decode (0xCB#8 :: op2 :: rest) = .ok (prefixed op2, rest) := rfl

/-- An unregistered second byte has no entry in the secondary table (R108). -/
theorem secondary_of_unregistered {op2 : Byte} (h : registeredSecondary op2 = false) : secondary op2 = none := by
  simpa [registeredSecondary_eq] using h

/-- An unregistered second byte leaves `PREFIX CB` itself (R108, log entry 8). -/
theorem prefixed_of_unregistered {op2 : Byte} (h : registeredSecondary op2 = false) : prefixed op2 = .prefixCb op2 := by
  rw [prefixed, secondary_of_unregistered h]

end Sys2Proof

namespace Sys2Proof.Machine

/-- With both bytes readable, the fetch of `PREFIX CB` gives what the secondary table holds for the second one (R100, R170). -/
theorem fetch_prefixed {s : State} {op2 : Byte} (hcb : s.memRead s.pc = .ok 0xCB#8)
    (hop2 : s.memRead (s.pc + 1#16) = .ok op2) : s.fetch = .ok (prefixed op2) := by
  have hbytes : s.readBytes 2 s.pc = .ok [0xCB#8, op2] := by simp only [State.readBytes, hcb, hop2]
  exact fetch_of_decode hbytes (decode_prefixed op2 [])

/-- A step whose fetch succeeds runs the instruction, and what follows any step (R100, R191). -/
theorem step_of_fetch_ok {s t : State} {i : Instr} (hs : s.fault = none) (hf : s.fetch = .ok i) (hx : exec i s = .next t) :
    step s = .next t.settle := by
  simp only [step_eq, hs, hf, hx]

theorem exec_prefixCb (op2 : Byte) (s : State) : exec (.prefixCb op2) s = runSecondary op2 s := rfl

/-- `PREFIX CB` with an unregistered second byte raises DecodeFault at its own address (R170). -/
theorem exec_prefixCb_unregistered {op2 : Byte} (s : State) (h : registeredSecondary op2 = false) :
    exec (.prefixCb op2) s = .next (s.raise (.decodeFault .secondary op2 s.pc)) := by
  rw [exec_prefixCb, runSecondary, secondary_of_unregistered h]

/-- Settles O8: the fault of the second byte's fetch is the step's (`step_of_second_byte_fault`); otherwise the step runs what the
secondary table gives (`fetch_prefixed`, `step_of_fetch_ok`), which for an unregistered byte only raises
(`exec_prefixCb_unregistered`), and nothing follows a raise (`settle_of_fault`). -/
theorem prefixDispatchesInOneStep : Obligations.PrefixDispatchesInOneStep := by
  intro s hs hcb
  refine ⟨fun r hr => ?_, fun op2 hop2 hunreg => ?_, fun op2 i t hop2 _ hdec hx => ?_⟩
  · exact step_of_second_byte_fault hs hcb (decode_prefixed 0x00#8 []) hr
  · have hf : s.fetch = .ok (.prefixCb op2) := by rw [fetch_prefixed hcb hop2, prefixed_of_unregistered hunreg]
    rw [step_of_fetch_ok hs hf (exec_prefixCb_unregistered s hunreg), settle_of_fault (by simp)]
    rfl
  · have hi : i = prefixed op2 := by
      rw [decode_prefixed] at hdec
      cases hdec
      rfl
    exact step_of_fetch_ok hs (fetch_prefixed hcb hop2) (hi ▸ hx)

end Sys2Proof.Machine
end

section
/-! `BIT b,r` (R172): O35. -/
namespace Sys2Proof.Machine

/-- Every `BIT b,r` is the one shared test of its bit and register. -/
theorem exec_bitOf (b : BitVec 3) (r : Reg8) (s : State) : exec (Instr.bitOf b r) s = .next (testBit b r s) := by
  obtain ⟨⟨n, hn⟩⟩ := b
  interval_cases n <;> cases r <;> rfl

/-- The test as one record update: the flags and PC. -/
theorem testBit_eq (b : BitVec 3) (r : Reg8) (s : State) :
    testBit b r s = { s with flags := bitFlags b (s.reg8 r) s.flags, pc := s.pc + 2#16 } := rfl

/-- The flags of R172 as arithmetic on the tested value. -/
theorem bitFlags_eq (b : BitVec 3) (v : Byte) (f : Flags) : bitFlags b v f =
    { z := decide (v.toNat / 2 ^ b.toNat % 2 = 0), n := false, h := true, c := f.c } := by
  have hz : (!v.getLsbD b.toNat) = decide (v.toNat / 2 ^ b.toNat % 2 = 0) := by
    rw [BitVec.getLsbD, Nat.testBit_eq_decide_div_mod_eq, ← decide_not, decide_eq_decide, Nat.mod_two_not_eq_one]
  rw [bitFlags, hz]

/-- Settles O35: the shared test (`exec_bitOf`, `testBit_eq`) with its flags as arithmetic on the register (`bitFlags_eq`). -/
theorem testBitResult : Obligations.TestBitResult := by
  intro b r s
  rw [exec_bitOf, testBit_eq, bitFlags_eq]

end Sys2Proof.Machine
end

section
/-! Nothing reads the sound fields (R209): O54. The step is carried, operation by operation, past a change of the sound
controller; only a bus write of the sound window looks at it, and there the fault depends on the address alone. -/
namespace Sys2Proof.Machine

/-- `s` with another sound controller. -/
def State.withSnd (s : State) (d : Snd) : State := { s with snd := d }

@[simp] theorem withSnd_pc (s : State) (d : Snd) : (s.withSnd d).pc = s.pc := rfl
@[simp] theorem withSnd_sp (s : State) (d : Snd) : (s.withSnd d).sp = s.sp := rfl
@[simp] theorem withSnd_a (s : State) (d : Snd) : (s.withSnd d).a = s.a := rfl
@[simp] theorem withSnd_flags (s : State) (d : Snd) : (s.withSnd d).flags = s.flags := rfl
@[simp] theorem withSnd_reg8 (s : State) (d : Snd) (r : Reg8) : (s.withSnd d).reg8 r = s.reg8 r := by cases r <;> rfl
@[simp] theorem withSnd_pair (s : State) (d : Snd) (p : Pair) : (s.withSnd d).pair p = s.pair p := by cases p <;> rfl

@[simp] theorem setReg8_withSnd (s : State) (d : Snd) (r : Reg8) (v : Byte) :
    (s.withSnd d).setReg8 r v = (s.setReg8 r v).withSnd d := by cases r <;> rfl
@[simp] theorem setPair_withSnd (s : State) (d : Snd) (p : Pair) (v : Word) :
    (s.withSnd d).setPair p v = (s.setPair p v).withSnd d := by simp [State.setPair]
@[simp] theorem setFlags_withSnd (s : State) (d : Snd) (f : Flags) :
    (s.withSnd d).setFlags f = (s.setFlags f).withSnd d := rfl
@[simp] theorem setSp_withSnd (s : State) (d : Snd) (v : Word) : (s.withSnd d).setSp v = (s.setSp v).withSnd d := rfl
@[simp] theorem setPc_withSnd (s : State) (d : Snd) (v : Word) : (s.withSnd d).setPc v = (s.setPc v).withSnd d := rfl
@[simp] theorem advance_withSnd (s : State) (d : Snd) (n : Word) :
    (s.withSnd d).advance n = (s.advance n).withSnd d := rfl
@[simp] theorem stepHl_withSnd (s : State) (d : Snd) (u : HlUse) (addr : Word) :
    (s.withSnd d).stepHl u addr = (s.stepHl u addr).withSnd d := by cases u <;> simp [State.stepHl]
@[simp] theorem settle_withSnd (t : State) (d : Snd) : (t.withSnd d).settle = t.settle.withSnd d := by
  by_cases h : t.fault = none
  · rw [settle_of_none h, settle_of_none (t := t.withSnd d) h]; rfl
  · rw [settle_of_fault h, settle_of_fault (t := t.withSnd d) h]

/-- The same fault, or two working copies that differ in the sound controller only. -/
def SameButSnd (x y : Except FaultRecord State) : Prop :=
  (∃ r, x = .error r ∧ y = .error r) ∨ ∃ t d, x = .ok t ∧ y = .ok (t.withSnd d)

theorem SameButSnd.error (r : FaultRecord) : SameButSnd (.error r) (.error r) := .inl ⟨r, rfl, rfl⟩

theorem SameButSnd.ok (t : State) (d : Snd) : SameButSnd (.ok t) (.ok (t.withSnd d)) := .inr ⟨t, d, rfl, rfl⟩

/-- What follows the accesses of an instruction keeps the relation when it commutes with a change of the sound controller. -/
theorem SameButSnd.map {x y : Except FaultRecord State} {f : State → State} (h : SameButSnd x y)
    (hf : ∀ t d, f (t.withSnd d) = (f t).withSnd d) : SameButSnd (x.map f) (y.map f) := by
  rcases h with ⟨r, rfl, rfl⟩ | ⟨t, d, rfl, rfl⟩
  · exact .error r
  · exact .inr ⟨f t, d, rfl, congrArg Except.ok (hf t d)⟩

/-- Two next states that differ in the sound controller only. -/
def NextButSnd (x y : Result) : Prop := ∃ t d, x = .next t ∧ y = .next (t.withSnd d)

/-! ### The bus and the stack -/

/-- No read of the bus looks at the sound controller (R61, R208). -/
@[simp] theorem memRead_withSnd (s : State) (d : Snd) (addr : Word) : (s.withSnd d).memRead addr = s.memRead addr :=
  memRead_congr rfl rfl addr

/-- A write of the bus may change the sound controller, by its own old value; its fault never depends on it (R62, R201). -/
theorem memWrite_withSnd (s : State) (d : Snd) (addr : Word) (v : Byte) :
    SameButSnd (s.memWrite addr v) ((s.withSnd d).memWrite addr v) := by
  unfold State.memWrite
  cases regionOf addr with
  | rom | unmapped => exact .error _
  | vram | wram | hram => exact .ok _ d
  | sound =>
    simp only [State.withSnd]
    cases hs : s.snd.write addr v with
    | error r => rw [Snd.write_error_iff.mp hs]; exact .error r
    | ok e =>
      cases hd : d.write addr v with
      | error r => rw [Snd.write_error_iff.mp hd] at hs; cases hs
      | ok e' => exact .ok _ e'
  | lcd =>
    simp only [State.withSnd]
    cases s.lcd.write addr v with
    | error r => exact .error r
    | ok l => exact .ok _ d

theorem push16_withSnd (s : State) (d : Snd) (v : Word) : SameButSnd (s.push16 v) ((s.withSnd d).push16 v) := by
  unfold State.push16
  simp only [setSp_withSnd, withSnd_sp]
  rcases memWrite_withSnd (s.setSp (s.sp - 1#16)) d (s.sp - 1#16) (hiByte v) with ⟨r, hs, hd⟩ | ⟨t, e, hs, hd⟩
  · rw [hs, hd]; exact .error r
  · rw [hs, hd]; exact memWrite_withSnd _ e _ _

theorem pop16_withSnd (s : State) (d : Snd) :
    (s.withSnd d).pop16 = s.pop16.map fun p => (p.1, p.2.withSnd d) := by
  simp only [State.pop16, withSnd_sp, memRead_withSnd]
  cases s.memRead s.sp with
  | error r => rfl
  | ok lo => cases s.memRead (s.sp + 1#16) <;> rfl

/-! ### The instructions -/

theorem storeAtHl_eq_map (u : HlUse) (s : State) :
    storeAtHl u s = (s.memWrite (s.pair .hl) s.a).map fun t => (t.stepHl u (s.pair .hl)).advance 1#16 := by
  unfold storeAtHl; cases s.memWrite (s.pair .hl) s.a <;> rfl

theorem pushPair_eq_map (p : Pair) (s : State) :
    pushPair p s = (s.push16 (s.pair p)).map fun t => t.advance 1#16 := by
  unfold pushPair; cases s.push16 (s.pair p) <;> rfl

theorem callTo_eq_map (nn : Word) (s : State) :
    callTo nn s = (s.push16 (s.pc + 3#16)).map fun t => t.setPc nn := by
  unfold callTo; cases s.push16 (s.pc + 3#16) <;> rfl

theorem storeAtHl_withSnd (u : HlUse) (s : State) (d : Snd) :
    SameButSnd (storeAtHl u s) (storeAtHl u (s.withSnd d)) := by
  rw [storeAtHl_eq_map, storeAtHl_eq_map, withSnd_pair, withSnd_a]
  exact (memWrite_withSnd s d _ _).map fun t e => by rw [stepHl_withSnd, advance_withSnd]

theorem pushPair_withSnd (p : Pair) (s : State) (d : Snd) :
    SameButSnd (pushPair p s) (pushPair p (s.withSnd d)) := by
  rw [pushPair_eq_map, pushPair_eq_map, withSnd_pair]
  exact (push16_withSnd s d _).map fun t e => advance_withSnd t e _

theorem callTo_withSnd (nn : Word) (s : State) (d : Snd) :
    SameButSnd (callTo nn s) (callTo nn (s.withSnd d)) := by
  rw [callTo_eq_map, callTo_eq_map, withSnd_pc]
  exact (push16_withSnd s d _).map fun t e => setPc_withSnd t e _

theorem loadFromHl_withSnd (u : HlUse) (s : State) (d : Snd) :
    SameButSnd (loadFromHl u s) (loadFromHl u (s.withSnd d)) := by
  simp only [loadFromHl, withSnd_pair, memRead_withSnd]
  cases s.memRead (s.pair .hl) with
  | error r => exact .error r
  | ok v => simpa using .ok _ d

theorem popPair_withSnd (p : Pair) (s : State) (d : Snd) :
    SameButSnd (popPair p s) (popPair p (s.withSnd d)) := by
  unfold popPair
  rw [pop16_withSnd]
  cases s.pop16 with
  | error r => exact .error r
  | ok q => simpa [Except.map] using .ok _ d

theorem returnToCaller_withSnd (s : State) (d : Snd) :
    SameButSnd (returnToCaller s) (returnToCaller (s.withSnd d)) := by
  unfold returnToCaller
  rw [pop16_withSnd]
  cases s.pop16 with
  | error r => exact .error r
  | ok q => exact .ok _ d

/-- An instruction that cannot fault and commutes with a change of the sound controller. -/
theorem next_withSnd {f : State → State} {s : State} {d : Snd} (h : f (s.withSnd d) = (f s).withSnd d) :
    NextButSnd (.next (f s)) (.next (f (s.withSnd d))) := ⟨f s, d, rfl, by rw [h]⟩

theorem commit_withSnd {s : State} {d : Snd} {x y : Except FaultRecord State} (h : SameButSnd x y) :
    NextButSnd (commit s x) (commit (s.withSnd d) y) := by
  rcases h with ⟨r, rfl, rfl⟩ | ⟨t, e, rfl, rfl⟩
  · exact ⟨s.raise r, d, rfl, rfl⟩
  · exact ⟨t, e, rfl, rfl⟩

theorem incReg_withSnd (r : Reg8) (s : State) (d : Snd) : incReg r (s.withSnd d) = (incReg r s).withSnd d := by
  simp [incReg]

theorem decReg_withSnd (r : Reg8) (s : State) (d : Snd) : decReg r (s.withSnd d) = (decReg r s).withSnd d := by
  simp [decReg]

theorem loadImm8_withSnd (r : Reg8) (n : Byte) (s : State) (d : Snd) :
    loadImm8 r n (s.withSnd d) = (loadImm8 r n s).withSnd d := by simp [loadImm8]

theorem loadImmPair_withSnd (p : Pair) (nn : Word) (s : State) (d : Snd) :
    loadImmPair p nn (s.withSnd d) = (loadImmPair p nn s).withSnd d := by simp [loadImmPair]

theorem rotateReg_withSnd (r : Reg8) (len : Word) (s : State) (d : Snd) :
    rotateReg r len (s.withSnd d) = (rotateReg r len s).withSnd d := by simp [rotateReg]

theorem testBit_withSnd (b : BitVec 3) (r : Reg8) (s : State) (d : Snd) :
    testBit b r (s.withSnd d) = (testBit b r s).withSnd d := by simp [testBit]

theorem relJump_withSnd (c : Bool) (e : Byte) (s : State) (d : Snd) :
    relJump c e (s.withSnd d) = (relJump c e s).withSnd d := by cases c <;> rfl

theorem runSecondary_withSnd (op2 : Byte) (s : State) (d : Snd) :
    NextButSnd (runSecondary op2 s) (runSecondary op2 (s.withSnd d)) := by
  unfold runSecondary
  cases secondary op2 with
  | none => exact ⟨_, d, rfl, rfl⟩
  | some c =>
    cases c with
    | rl r => exact next_withSnd (rotateReg_withSnd r _ s d)
    | bit b r => exact next_withSnd (testBit_withSnd b r s d)

/-- No instruction reads the sound controller (R209). -/
theorem exec_withSnd (i : Instr) (s : State) (d : Snd) : NextButSnd (exec i s) (exec i (s.withSnd d)) := by
  cases i with
  | incB | incC | incD | incE | incH | incL | incA => exact next_withSnd (incReg_withSnd _ s d)
  | decB | decC | decD | decE | decH | decL | decA => exact next_withSnd (decReg_withSnd _ s d)
  | ldBImm n | ldCImm n | ldDImm n | ldEImm n | ldHImm n | ldLImm n | ldAImm n =>
    exact next_withSnd (loadImm8_withSnd _ n s d)
  | ldBcImm nn | ldDeImm nn | ldHlImm nn => exact next_withSnd (loadImmPair_withSnd _ nn s d)
  | ldSpImm nn => exact next_withSnd (f := loadImmSp nn) rfl
  | ldHlA | ldHlIncA | ldHlDecA => exact commit_withSnd (storeAtHl_withSnd _ s d)
  | ldAHl | ldAHlInc | ldAHlDec => exact commit_withSnd (loadFromHl_withSnd _ s d)
  | rla | rlB | rlC | rlD | rlE | rlH | rlL | rlA => exact next_withSnd (rotateReg_withSnd _ _ s d)
  | xorA => exact next_withSnd (f := xorSelf) rfl
  | cpImm n => exact next_withSnd (f := compareImm n) rfl
  | jr e | jrNz e | jrZ e => exact next_withSnd (relJump_withSnd _ e s d)
  | pushBc | pushDe | pushHl => exact commit_withSnd (pushPair_withSnd _ s d)
  | popBc | popDe | popHl => exact commit_withSnd (popPair_withSnd _ s d)
  | call nn => exact commit_withSnd (callTo_withSnd nn s d)
  | ret => exact commit_withSnd (returnToCaller_withSnd s d)
  | prefixCb op2 => exact runSecondary_withSnd op2 s d
  | _ => exact next_withSnd (testBit_withSnd _ _ s d)

/-! ### The step -/

/-- The fetch reads through the bus only (R100). -/
theorem fetch_withSnd (s : State) (d : Snd) : (s.withSnd d).fetch = s.fetch := by
  simp only [State.fetch, memRead_withSnd, withSnd_pc]

/-- With the latch set a step stops with the fault it holds (R27). -/
theorem step_of_latched {s : State} {r : FaultRecord} (h : s.fault = some r) : step s = .fault (.halted r) := by
  rw [step_eq, h]

/-- A step stops with the same fault, or answers states that differ in the sound controller only. -/
theorem step_withSnd (s : State) (d : Snd) :
    (∃ f, step s = .fault f ∧ step (s.withSnd d) = .fault f) ∨ NextButSnd (step s) (step (s.withSnd d)) := by
  cases hs : s.fault with
  | some r => exact .inl ⟨_, step_of_latched hs, step_of_latched (s := s.withSnd d) hs⟩
  | none =>
    right
    cases hf : s.fetch with
    | error r =>
      have hf' : (s.withSnd d).fetch = .error r := (fetch_withSnd s d).trans hf
      exact ⟨s.raise r, d, step_of_fetch_fault hs hf, step_of_fetch_fault (s := s.withSnd d) hs hf'⟩
    | ok i =>
      have hf' : (s.withSnd d).fetch = .ok i := (fetch_withSnd s d).trans hf
      obtain ⟨t, e, hx, hx'⟩ := exec_withSnd i s d
      refine ⟨t.settle, e, step_of_fetch_ok hs hf hx, ?_⟩
      rw [step_of_fetch_ok (s := s.withSnd d) hs hf' hx', settle_withSnd]

/-- Settles O54: both clauses are read off the two outcomes of `step_withSnd`. -/
theorem soundFieldsAreNotRead : Obligations.SoundFieldsAreNotRead := by
  intro s d
  rcases step_withSnd s d with ⟨f, hs, hd⟩ | ⟨t, e, hs, hd⟩
  · rw [hs]
    refine ⟨fun t ht => ?_, fun g hg => ?_⟩
    · cases ht
    · cases hg; exact hd
  · rw [hs]
    refine ⟨fun u hu => ?_, fun g hg => ?_⟩
    · cases hu; exact ⟨e, hd⟩
    · cases hg

end Sys2Proof.Machine
end

section
/-! What every step keeps, whatever the table of further handlers: O60, and from it O10, O40, O41 and O53. -/
namespace Sys2Proof.Machine

/-- The LCD events move the mode round the ring, whatever the line and the total (R190). -/
theorem lcdEvents_mode (total k : Nat) (p : LcdMode × Nat) : (lcdEvents total k p).1 = nextMode^[k] p.1 := by
  induction k generalizing p with
  | zero => rfl
  | succ k ih => rw [lcdEvents, ih, Function.iterate_succ_apply]

theorem Lcd.run_mode (l : Lcd) (total k : Nat) : (l.run total k).mode = nextMode^[k] l.mode := lcdEvents_mode total k _

/-- A write of the bus keeps the invariant: a stored byte lies in an array, a device write keeps the line and the length in
range (R62, R192). -/
theorem memWrite_keeps_inv {s t : State} {addr : Word} {v : Byte} (h : Inv s) (hw : s.memWrite addr v = .ok t) : Inv t := by
  obtain ⟨hmem, harr, hline, hlen⟩ := h
  rcases memWrite_cases hw with ⟨hram, rfl⟩ | ⟨d, hd, rfl⟩ | ⟨l, hl, rfl⟩
  · exact ⟨wf_write _ v hmem, cellsInArrays_write v harr (RamAddress.array hram), hline, hlen⟩
  · have := Snd.write_length hd
    exact ⟨hmem, harr, hline, show d.pulseA.length ≤ 64 by omega⟩
  · have := Lcd.write_line hl
    exact ⟨hmem, harr, show l.currentLine < _ by omega, hlen⟩

/-- The LCD events keep the invariant (R192). -/
theorem lcdEvents_keep_inv {s : State} (h : Inv s) (k n : Nat) :
    Inv { s with lcd := s.lcd.run Config.totalLines k, steps := n } :=
  ⟨h.memory, h.arrays, lcdEvents_line k h.line, h.length⟩

theorem stepWith_keeps_inv {ext : ExtHandlers} {s t : State} (hs : Inv s) (h : stepWith ext s = .next t) : Inv t := by
  refine stepWith_keeps hs (fun a b ha hm hl hd => ?_) (fun _ _ _ _ ha hw => memWrite_keeps_inv ha hw)
    (fun _ k n ha => lcdEvents_keep_inv ha k n) h
  exact ⟨hm ▸ ha.memory, hm ▸ ha.arrays, hl ▸ ha.line, hd ▸ ha.length⟩

/-- No write of the bus changes a byte of the ROM window (R62). -/
theorem memWrite_rom {s t : State} {addr : Word} {v : Byte} (hw : s.memWrite addr v = .ok t) {k : Nat} (hk : k ≤ 0x7FFF) :
    t.mem.read k = s.mem.read k := by
  rcases memWrite_cases hw with ⟨hram, rfl⟩ | ⟨d, _, rfl⟩ | ⟨l, _, rfl⟩
  · exact read_write_other v (by unfold RamAddress at hram; omega)
  · rfl
  · rfl

theorem stepWith_rom {ext : ExtHandlers} {s t : State} (h : stepWith ext s = .next t) {k : Nat} (hk : k ≤ 0x7FFF) :
    t.mem.read k = s.mem.read k :=
  stepWith_keeps (P := fun u => u.mem.read k = s.mem.read k) rfl (fun _ _ ha hm _ _ => hm ▸ ha)
    (fun _ _ _ _ ha hw => (memWrite_rom hw hk).trans ha) (fun _ _ _ ha => ha) h

/-- No write of the bus changes the envelope's starting volume (R203). -/
theorem memWrite_initialVolume {s t : State} {addr : Word} {v : Byte} (hw : s.memWrite addr v = .ok t) :
    t.snd.pulseA.envInitialVolume = s.snd.pulseA.envInitialVolume := by
  rcases memWrite_cases hw with ⟨_, rfl⟩ | ⟨d, hd, rfl⟩ | ⟨l, _, rfl⟩
  · rfl
  · exact Snd.write_initialVolume hd
  · rfl

theorem stepWith_initialVolume {ext : ExtHandlers} {s t : State} (h : stepWith ext s = .next t) :
    t.snd.pulseA.envInitialVolume = s.snd.pulseA.envInitialVolume :=
  stepWith_keeps (P := fun u => u.snd.pulseA.envInitialVolume = s.snd.pulseA.envInitialVolume) rfl
    (fun _ _ ha _ _ hd => hd ▸ ha) (fun _ _ _ _ ha hw => (memWrite_initialVolume hw).trans ha) (fun _ _ _ ha => ha) h

/-- A step commits with the latch clear or only sets the latch (R9). -/
theorem stepWith_allOrNothing {ext : ExtHandlers} {s t : State} (h : stepWith ext s = .next t) :
    t.fault = none ∨ ∃ r, t = s.raise r := by
  rcases (stepWith_cases h).2 with hr | ⟨u, _, hu, rfl⟩
  · exact .inr hr
  · exact .inl ((settle_fault u).trans hu)

/-- No write of the bus moves the mode (R183, R190). -/
theorem memWrite_mode {s t : State} {addr : Word} {v : Byte} (hw : s.memWrite addr v = .ok t) : t.lcd.mode = s.lcd.mode := by
  rcases memWrite_cases hw with ⟨_, rfl⟩ | ⟨d, _, rfl⟩ | ⟨l, hl, rfl⟩
  · rfl
  · rfl
  · exact Lcd.write_mode hl

theorem BusPath.mode {s t : State} (h : BusPath s t) : t.lcd.mode = s.lcd.mode := by
  induction h with
  | same t _ hl => rw [hl]
  | write t u w _ _ _ hw _ hl _ _ _ ih => rw [hl, memWrite_mode hw, ih]

/-- A committed step is counted, and the schedule's events alone move the mode (R190, R191). -/
theorem stepWith_committed {ext : ExtHandlers} {s t : State} (h : stepWith ext s = .next t) (ht : t.fault = none) :
    t.steps = s.steps + 1 ∧ t.lcd.mode = nextMode^[Config.lcdSchedule (s.steps + 1)] s.lcd.mode := by
  rcases (stepWith_cases h).2 with ⟨r, rfl⟩ | ⟨u, hpath, hu, rfl⟩
  · cases ht
  · rw [settle_of_none hu, Lcd.run_mode, hpath.mode, hpath.steps]
    exact ⟨rfl, rfl⟩

/-- Settles O60: the invariant, the ROM window and the starting volume are kept (`stepWith_keeps`), a step is all or nothing, and
only the schedule moves the mode. -/
theorem everyTableKeepsTheMachine : Obligations.EveryTableKeepsTheMachine := by
  intro ext s t h
  exact ⟨fun hs => stepWith_keeps_inv hs h, fun _ hk => stepWith_rom h hk, stepWith_initialVolume h,
    stepWith_allOrNothing h, stepWith_committed h⟩

/-- Settles O10: `stepWith_allOrNothing` at the empty table. -/
theorem stepIsAllOrNothing : Obligations.StepIsAllOrNothing := fun _ _ h => stepWith_allOrNothing h

/-- Settles O40: `stepWith_rom` at the empty table. -/
theorem romNeverChanges : Obligations.RomNeverChanges := fun _ _ h _ hk => stepWith_rom h hk

/-- Settles O41: `stepWith_keeps_inv` at the empty table. -/
theorem stepKeepsInvariant : Obligations.StepKeepsInvariant := fun _ _ hs h => stepWith_keeps_inv hs h

/-- Settles O53: `stepWith_initialVolume` at the empty table. -/
theorem initialVolumeNeverChanges : Obligations.InitialVolumeNeverChanges := fun _ _ h => stepWith_initialVolume h

/-- Settles O51: a committed step by `stepWith_committed`; one that raised is the old state with the latch set
(`stepWith_allOrNothing`). -/
theorem modeFollowsSchedule : Obligations.ModeFollowsSchedule := by
  intro s t h
  refine ⟨stepWith_committed h, fun ht => ?_⟩
  obtain ⟨r, rfl⟩ := (stepWith_allOrNothing h).resolve_left ht
  exact ⟨rfl, rfl⟩

end Sys2Proof.Machine
end

section
/-! The enable flag of the LCD controller (R183): O50. -/
namespace Sys2Proof.Machine

/-- The LCD is enabled, or it is as the write that disables it leaves it: in VBlank with the line reset (R183). -/
def Lcd.EnabledOrReset (l : Lcd) : Prop := l.lcdc.enable = true ∨ (l.mode = .vBlank ∧ l.currentLine = 0)

/-- A write of an LCD register disables it in VBlank only, resetting the line, and moves the line in no other way (R183). -/
theorem Lcd.EnabledOrReset.write {l l' : Lcd} {addr : Word} {v : Byte} (h : l.EnabledOrReset) (hw : l.write addr v = .ok l') :
    l'.EnabledOrReset := by
  rcases Lcd.write_cases hw with ⟨_, _, _, hmode, rfl⟩ | ⟨_, hset, rfl⟩ | ⟨_, rfl⟩ | ⟨_, rfl⟩ | ⟨_, rfl⟩
  · exact .inr ⟨hmode, rfl⟩
  · rcases hset with hoff | hbit
    · exact .inr (h.resolve_left (by simp [hoff]))
    · exact .inl hbit
  all_goals exact h

theorem BusPath.enabledOrReset {s t : State} (h : BusPath s t) (hs : s.lcd.EnabledOrReset) : t.lcd.EnabledOrReset := by
  induction h with
  | same t _ hl => exact hl ▸ hs
  | write t u w _ _ _ hw _ hl _ _ _ ih =>
    rw [hl]
    rcases memWrite_cases hw with ⟨_, rfl⟩ | ⟨d, _, rfl⟩ | ⟨l, hlcd, rfl⟩
    · exact ih
    · exact ih
    · exact ih.write hlcd

/-- Settles O50: a step that clears `enable` committed, and `Lcd.EnabledOrReset`, which every write keeps, then says where the
schedule's events begin. -/
theorem enableClearedOnlyInVBlank : Obligations.EnableClearedOnlyInVBlank := by
  intro s t h hs ht
  rcases (step_cases h).2 with ⟨r, rfl⟩ | ⟨u, hpath, hu, rfl⟩
  · exact absurd (hs.symm.trans ht) (by decide)
  · rw [settle_of_none hu] at ht ⊢
    have hoff : u.lcd.lcdc.enable ≠ true := by simpa using ht
    obtain ⟨hmode, hline⟩ := (hpath.enabledOrReset (.inl hs)).resolve_left hoff
    refine ⟨hpath.mode.symm.trans hmode, ?_⟩
    simp only [Lcd.run, hmode, hline, hpath.steps]

end Sys2Proof.Machine
end

section
/-! Decoding and encoding (R100 to R108): O2, O3, O4, O5 and O1. -/
namespace Sys2Proof

/-! ### The secondary table -/

/-- The secondary opcode of an operation as R107 gives it: `0x10 + r` for `RL r`, `0x40 + 8*b + r` for `BIT b,r`. -/
def CbOp.opcode : CbOp → Nat
  | .rl r => 0x10 + Claims.regCode r
  | .bit b r => 0x40 + 8 * b.toNat + Claims.regCode r

theorem CbOp.opcode_lt (c : CbOp) : c.opcode < 256 := by
  have hreg : ∀ r, Claims.regCode r ≤ 7 := by intro r; cases r <;> decide
  cases c with
  | rl r => have := hreg r; simp only [opcode]; omega
  | bit b r => have := hreg r; have := b.isLt; simp only [opcode]; omega

theorem secondary_opcode (c : CbOp) : secondary (BitVec.ofNat 8 c.opcode) = some c := by
  cases c with
  | rl r => cases r <;> rfl
  | bit b r => revert b; cases r <;> decide

/-- The secondary table has no entry at any other byte. -/
theorem opcode_of_secondary {op2 : Byte} {c : CbOp} (h : secondary op2 = some c) : op2 = BitVec.ofNat 8 c.opcode := by
  have hall : ∀ op2 : Byte, ∀ c ∈ secondary op2, op2 = BitVec.ofNat 8 c.opcode := by decide
  exact hall op2 c h

theorem encode_toInstr (c : CbOp) : encode c.toInstr = [0xCB#8, BitVec.ofNat 8 c.opcode] := by
  cases c with
  | rl r => cases r <;> rfl
  | bit b r => revert b; cases r <;> decide

theorem wellFormed_toInstr (c : CbOp) : c.toInstr.wellFormed = true := by
  cases c with
  | rl r => cases r <;> rfl
  | bit b r => revert b; cases r <;> decide

/-- The byte after 0xCB stands for the instruction it decodes to, whatever the byte is (R107, log entry 8). -/
theorem prefixed_sound (op2 : Byte) : (prefixed op2).wellFormed = true ∧ encode (prefixed op2) = [0xCB#8, op2] := by
  unfold prefixed
  cases h : secondary op2 with
  | none => exact ⟨by simp [Instr.wellFormed, registeredSecondary_eq, h], rfl⟩
  | some c => exact ⟨wellFormed_toInstr c, by rw [opcode_of_secondary h, encode_toInstr]⟩

/-- The decoder takes a secondary opcode to its operation (R107). -/
theorem decode_secondary (c : CbOp) (rest : List Byte) :
    decode (0xCB#8 :: BitVec.ofNat 8 c.opcode :: rest) = .ok (c.toInstr, rest) := by
  rw [decode_prefixed, prefixed, secondary_opcode]

/-! ### The primary table -/

theorem lookupEntry_mem {op : Byte} {e : Entry} {rows : List (Byte × Entry)} (h : lookupEntry op rows = some e) :
    (op, e) ∈ rows := by
  induction rows with
  | nil => cases h
  | cons row rows ih =>
    unfold lookupEntry at h
    split at h
    · cases h; subst_vars; exact List.mem_cons_self
    · exact List.mem_cons_of_mem _ (ih h)

theorem lookupEntry_eq_none {op : Byte} {rows : List (Byte × Entry)} :
    lookupEntry op rows = none ↔ op ∉ rows.map Prod.fst := by
  induction rows with
  | nil => simp [lookupEntry]
  | cons row rows ih =>
    unfold lookupEntry
    split <;> simp_all [eq_comm]

/-- The primary table registers exactly the values R106 lists. -/
theorem primary_eq_none_iff (op : Byte) : primary op = none ↔ op.toNat ∉ Claims.primaryValues := by
  have hvalues : Claims.primaryValues = (primaryTable.map Prod.fst).map BitVec.toNat := rfl
  rw [primary, lookupEntry_eq_none, hvalues, List.mem_map_of_injective fun _ _ => BitVec.eq_of_toNat_eq]

/-- The entry's instructions are well-formed and encoded as the opcode and the bytes its format asks for (R101). -/
def Entry.EncodesFrom (op : Byte) : Entry → Prop
  | .plain i => i.wellFormed = true ∧ encode i = [op]
  | .imm8 f => ∀ n, (f n).wellFormed = true ∧ encode (f n) = [op, n]
  | .imm16 f => ∀ nn, (f nn).wellFormed = true ∧ encode (f nn) = op :: immWord nn
  | .secondaryTable => op = 0xCB#8

/-- The encoder is right about every row of the primary table (R106): the rows are taken one by one, and each is an equation of
the encoder that computes. -/
theorem primary_encodesFrom {op : Byte} {e : Entry} (h : primary op = some e) : e.EncodesFrom op := by
  have hrows : ∀ row ∈ primaryTable, row.2.EncodesFrom row.1 := by
    simp only [primaryTable, primaryIncDec, primaryLoads, primaryRest, List.cons_append, List.nil_append,
      List.forall_mem_cons, List.not_mem_nil, false_imp_iff, implies_true, and_true]
    simp only [Entry.EncodesFrom, and_true]
    and_intros <;> intros <;> and_intros <;> rfl
  exact hrows _ (lookupEntry_mem h)

@[simp] theorem immWord_joinBytes (hi lo : Byte) : immWord (joinBytes hi lo) = [lo, hi] := by
  rw [immWord, loByte_joinBytes, hiByte_joinBytes]

/-! ### The statements -/

/-- Settles O3: the format of the entry says which bytes the decoder took (`decode_cases`), and the encoder gives the same ones
back (`primary_encodesFrom`, `prefixed_sound`). -/
theorem decodeDeterminesBytes : Obligations.DecodeDeterminesBytes := by
  intro bs rest i h
  cases bs with
  | nil => cases h
  | cons op bs =>
    rcases decode_cases h with ⟨hp, rfl⟩ | ⟨f, n, hp, rfl, rfl⟩ | ⟨f, lo, hi, hp, rfl, rfl⟩ | ⟨op2, hp, rfl, rfl⟩
    · obtain ⟨hwf, henc⟩ := primary_encodesFrom hp
      exact ⟨hwf, by rw [henc]; rfl⟩
    · obtain ⟨hwf, henc⟩ := primary_encodesFrom hp n
      exact ⟨hwf, by rw [henc]; rfl⟩
    · obtain ⟨hwf, henc⟩ := primary_encodesFrom hp (joinBytes hi lo)
      exact ⟨hwf, by rw [henc, immWord_joinBytes]; rfl⟩
    · obtain ⟨hwf, henc⟩ := prefixed_sound op2
      have hcb : op = 0xCB#8 := primary_encodesFrom hp
      exact ⟨hwf, by rw [henc, hcb]; rfl⟩

/-- A word immediate is put together again from its two bytes (R105). -/
theorem decode_immWord {op : Byte} {f : Word → Instr} (h : primary op = some (.imm16 f)) (nn : Word) (rest : List Byte) :
    decode (op :: immWord nn ++ rest) = .ok (f nn, rest) := by
  simp only [immWord, List.cons_append, List.nil_append, decode, h, joinBytes_hi_lo]

/-- Settles O2: every opcode's own row of its table answers, a word immediate by `decode_immWord`, and after 0xCB an unregistered
byte leaves the instruction `prefixCb`. -/
theorem decodeOfEncode : Obligations.DecodeOfEncode := by
  intro i rest hwf
  cases i with
  | ldBcImm nn | ldDeImm nn | ldHlImm nn | ldSpImm nn | call nn => exact decode_immWord rfl nn rest
  | prefixCb op2 =>
    have hunreg : registeredSecondary op2 = false := by simpa [Instr.wellFormed] using hwf
    exact (decode_prefixed op2 rest).trans (by rw [prefixed_of_unregistered hunreg])
  | _ => rfl

/-- Settles O4: an opcode outside the listed values has no row (`primary_eq_none_iff`); a listed one has a row, and two bytes are
enough for every format. -/
theorem primaryTableIsExact : Obligations.PrimaryTableIsExact := by
  intro op b1 b2 rest
  refine ⟨fun hout => ?_, fun hin => ?_⟩
  · have hp := (primary_eq_none_iff op).mpr hout
    simp only [decode, hp]
  · cases hp : primary op with
    | none => exact absurd hin ((primary_eq_none_iff op).mp hp)
    | some e => cases e <;> simp [decode, hp]

/-- Settles O5: the operations of the secondary table by `decode_secondary`, every other byte because no operation has it as its
opcode (`opcode_of_secondary`). -/
theorem secondaryTableIsExact : Obligations.SecondaryTableIsExact := by
  refine ⟨fun r rest => decode_secondary (.rl r) rest, fun b r rest => decode_secondary (.bit b r) rest,
    fun op2 rest hrl hbit => ?_⟩
  have hnone : secondary op2 = none := by
    cases h : secondary op2 with
    | none => rfl
    | some c =>
      have hop : op2.toNat = c.opcode := by
        rw [opcode_of_secondary h, BitVec.toNat_ofNat, Nat.mod_eq_of_lt c.opcode_lt]
      cases c with
      | rl r => exact absurd hop (hrl r)
      | bit b r => exact absurd hop (hbit b r)
  rw [decode_prefixed, prefixed, hnone]

/-- Settles O1: each word is run through the decoder. -/
theorem specWordsDecode : Obligations.SpecWordsDecode := by
  unfold Obligations.SpecWordsDecode
  and_intros <;> rfl

end Sys2Proof
end

section
/-! The bus and the stack under a change of a working copy that the bus does not look at (R62, R163). -/
namespace Sys2Proof.Machine

/-- `f` leaves memory and the devices as they are, and does not look at them. -/
def LeavesBus (f : State → State) : Prop :=
  ∀ s m l d, f { s with mem := m, lcd := l, snd := d } = { f s with mem := m, lcd := l, snd := d }

theorem LeavesBus.frame {f : State → State} (hf : LeavesBus f) (s : State) :
    (f s).mem = s.mem ∧ (f s).lcd = s.lcd ∧ (f s).snd = s.snd := by
  have h : f s = { f s with mem := s.mem, lcd := s.lcd, snd := s.snd } := hf s s.mem s.lcd s.snd
  exact ⟨by rw [h], by rw [h], by rw [h]⟩

theorem LeavesBus.memRead {f : State → State} (hf : LeavesBus f) (s : State) (addr : Word) :
    (f s).memRead addr = s.memRead addr := by
  obtain ⟨hmem, hlcd, _⟩ := hf.frame s
  exact memRead_congr hmem (congrArg Lcd.currentLine hlcd) addr

theorem LeavesBus.memWrite {f : State → State} (hf : LeavesBus f) (s : State) (addr : Word) (v : Byte) :
    (f s).memWrite addr v = (s.memWrite addr v).map f := by
  obtain ⟨hmem, hlcd, hsnd⟩ := hf.frame s
  unfold State.memWrite
  rw [hmem, hlcd, hsnd]
  cases regionOf addr with
  | rom | unmapped => rfl
  | vram | wram | hram => exact congrArg Except.ok (hf s _ s.lcd s.snd).symm
  | sound =>
    cases s.snd.write addr v with
    | error r => rfl
    | ok d => exact congrArg Except.ok (hf s s.mem s.lcd d).symm
  | lcd =>
    cases s.lcd.write addr v with
    | error r => rfl
    | ok l => exact congrArg Except.ok (hf s s.mem l s.snd).symm

theorem leavesBus_setSp (v : Word) : LeavesBus fun s => s.setSp v := fun _ _ _ _ => rfl

/-- The two writes of a push, in the order of R163. -/
def State.pushWrites (s : State) (v : Word) : Except FaultRecord State :=
  (s.memWrite (s.sp - 1#16) (hiByte v)).bind fun u => u.memWrite (s.sp - 2#16) (loByte v)

/-- A push is its two writes and the new SP. -/
theorem push16_eq (s : State) (v : Word) : s.push16 v = (s.pushWrites v).map fun w => w.setSp (s.sp - 2#16) := by
  have hsp : s.sp - 1#16 - 1#16 = s.sp - 2#16 := by rw [BitVec.sub_sub]; rfl
  unfold State.push16 State.pushWrites
  rw [(leavesBus_setSp (s.sp - 1#16)).memWrite s]
  cases s.memWrite (s.sp - 1#16) (hiByte v) with
  | error r => rfl
  | ok u =>
    have hpair : (u.setSp (s.sp - 1#16)).setSp (s.sp - 2#16) = u.setSp (s.sp - 2#16) := rfl
    simp only [Except.map, Except.bind, setSp_sp, hsp, hpair]
    exact (leavesBus_setSp (s.sp - 2#16)).memWrite u _ _

theorem LeavesBus.pushWrites {f : State → State} (hf : LeavesBus f) {s : State} (hsp : (f s).sp = s.sp) (v : Word) :
    (f s).pushWrites v = (s.pushWrites v).map f := by
  unfold State.pushWrites
  rw [hsp, hf.memWrite]
  cases s.memWrite (s.sp - 1#16) (hiByte v) with
  | error r => rfl
  | ok u => exact hf.memWrite u _ _

end Sys2Proof.Machine
end

section
/-! No instruction reads F.N or F.H (R21): O55. An instruction either does not touch the flags, and then commutes with a change
of the two, or computes both anew. -/
namespace Sys2Proof.Machine

/-- `s` with other subtract and half-carry flags. -/
def State.withNH (s : State) (n h : Bool) : State := { s with flags := { s.flags with n := n, h := h } }

@[simp] theorem withNH_pc (s : State) (n h : Bool) : (s.withNH n h).pc = s.pc := rfl
@[simp] theorem withNH_sp (s : State) (n h : Bool) : (s.withNH n h).sp = s.sp := rfl
@[simp] theorem withNH_a (s : State) (n h : Bool) : (s.withNH n h).a = s.a := rfl
@[simp] theorem withNH_flags_z (s : State) (n h : Bool) : (s.withNH n h).flags.z = s.flags.z := rfl
@[simp] theorem withNH_flags_c (s : State) (n h : Bool) : (s.withNH n h).flags.c = s.flags.c := rfl
@[simp] theorem withNH_reg8 (s : State) (n h : Bool) (r : Reg8) : (s.withNH n h).reg8 r = s.reg8 r := by cases r <;> rfl
@[simp] theorem withNH_pair (s : State) (n h : Bool) (p : Pair) : (s.withNH n h).pair p = s.pair p := by cases p <;> rfl

@[simp] theorem setReg8_withNH (s : State) (n h : Bool) (r : Reg8) (v : Byte) :
    (s.withNH n h).setReg8 r v = (s.setReg8 r v).withNH n h := by cases r <;> rfl
@[simp] theorem setPair_withNH (s : State) (n h : Bool) (p : Pair) (v : Word) :
    (s.withNH n h).setPair p v = (s.setPair p v).withNH n h := by simp [State.setPair]
@[simp] theorem setFlags_withNH (s : State) (n h : Bool) (f : Flags) : (s.withNH n h).setFlags f = s.setFlags f := rfl
@[simp] theorem setSp_withNH (s : State) (n h : Bool) (v : Word) :
    (s.withNH n h).setSp v = (s.setSp v).withNH n h := rfl
@[simp] theorem setPc_withNH (s : State) (n h : Bool) (v : Word) :
    (s.withNH n h).setPc v = (s.setPc v).withNH n h := rfl
@[simp] theorem advance_withNH (s : State) (n h : Bool) (k : Word) :
    (s.withNH n h).advance k = (s.advance k).withNH n h := rfl
@[simp] theorem stepHl_withNH (s : State) (n h : Bool) (u : HlUse) (addr : Word) :
    (s.withNH n h).stepHl u addr = (s.stepHl u addr).withNH n h := by cases u <;> simp [State.stepHl]
@[simp] theorem settle_withNH (t : State) (n h : Bool) : (t.withNH n h).settle = t.settle.withNH n h := by
  by_cases hf : t.fault = none
  · rw [settle_of_none hf, settle_of_none (t := t.withNH n h) hf]; rfl
  · rw [settle_of_fault hf, settle_of_fault (t := t.withNH n h) hf]

theorem leavesBus_withNH (n h : Bool) : LeavesBus fun s => s.withNH n h := fun _ _ _ _ => rfl

@[simp] theorem memRead_withNH (s : State) (n h : Bool) (addr : Word) : (s.withNH n h).memRead addr = s.memRead addr :=
  (leavesBus_withNH n h).memRead s addr

/-! ### The instructions that compute both flags anew -/

theorem incReg_withNH (r : Reg8) (s : State) (n h : Bool) : incReg r (s.withNH n h) = incReg r s := by
  simp [incReg, incFlags]

theorem decReg_withNH (r : Reg8) (s : State) (n h : Bool) : decReg r (s.withNH n h) = decReg r s := by
  simp [decReg, decFlags]

theorem rotateReg_withNH (r : Reg8) (len : Word) (s : State) (n h : Bool) :
    rotateReg r len (s.withNH n h) = rotateReg r len s := by simp [rotateReg]

theorem testBit_withNH (b : BitVec 3) (r : Reg8) (s : State) (n h : Bool) : testBit b r (s.withNH n h) = testBit b r s := by
  simp [testBit, bitFlags]

/-! ### The instructions that leave the flags -/

theorem loadImm8_withNH (r : Reg8) (v : Byte) (s : State) (n h : Bool) :
    loadImm8 r v (s.withNH n h) = (loadImm8 r v s).withNH n h := by simp [loadImm8]

theorem loadImmPair_withNH (p : Pair) (nn : Word) (s : State) (n h : Bool) :
    loadImmPair p nn (s.withNH n h) = (loadImmPair p nn s).withNH n h := by simp [loadImmPair]

theorem relJump_withNH (c : Bool) (e : Byte) (s : State) (n h : Bool) :
    relJump c e (s.withNH n h) = (relJump c e s).withNH n h := by cases c <;> rfl

theorem storeAtHl_withNH (u : HlUse) (s : State) (n h : Bool) :
    storeAtHl u (s.withNH n h) = (storeAtHl u s).map fun t => t.withNH n h := by
  rw [storeAtHl_eq_map, storeAtHl_eq_map, (leavesBus_withNH n h).memWrite s, withNH_pair, withNH_a]
  cases s.memWrite (s.pair .hl) s.a with
  | error r => rfl
  | ok w => exact congrArg Except.ok (by simp)

theorem loadFromHl_withNH (u : HlUse) (s : State) (n h : Bool) :
    loadFromHl u (s.withNH n h) = (loadFromHl u s).map fun t => t.withNH n h := by
  simp only [loadFromHl, withNH_pair, memRead_withNH]
  cases s.memRead (s.pair .hl) with
  | error r => rfl
  | ok v => exact congrArg Except.ok (by simp)

theorem push16_withNH (s : State) (n h : Bool) (v : Word) :
    (s.withNH n h).push16 v = (s.push16 v).map fun t => t.withNH n h := by
  rw [push16_eq, push16_eq, (leavesBus_withNH n h).pushWrites rfl]
  cases s.pushWrites v <;> rfl

theorem pushPair_withNH (p : Pair) (s : State) (n h : Bool) :
    pushPair p (s.withNH n h) = (pushPair p s).map fun t => t.withNH n h := by
  rw [pushPair_eq_map, pushPair_eq_map, withNH_pair, push16_withNH]
  cases s.push16 (s.pair p) <;> rfl

theorem callTo_withNH (nn : Word) (s : State) (n h : Bool) :
    callTo nn (s.withNH n h) = (callTo nn s).map fun t => t.withNH n h := by
  rw [callTo_eq_map, callTo_eq_map, withNH_pc, push16_withNH]
  cases s.push16 (s.pc + 3#16) <;> rfl

theorem pop16_withNH (s : State) (n h : Bool) :
    (s.withNH n h).pop16 = s.pop16.map fun q => (q.1, q.2.withNH n h) := by
  simp only [State.pop16, withNH_sp, memRead_withNH]
  cases s.memRead s.sp with
  | error r => rfl
  | ok lo => cases s.memRead (s.sp + 1#16) <;> rfl

theorem popPair_withNH (p : Pair) (s : State) (n h : Bool) :
    popPair p (s.withNH n h) = (popPair p s).map fun t => t.withNH n h := by
  unfold popPair
  rw [pop16_withNH]
  cases s.pop16 with
  | error r => rfl
  | ok q => exact congrArg Except.ok (by simp)

theorem returnToCaller_withNH (s : State) (n h : Bool) :
    returnToCaller (s.withNH n h) = (returnToCaller s).map fun t => t.withNH n h := by
  unfold returnToCaller
  rw [pop16_withNH]
  cases s.pop16 <;> rfl

/-! ### Every instruction, and the step -/

/-- Two next states that differ in F.N and F.H only. -/
def NextButNH (x y : Result) : Prop := ∃ t n h, x = .next t ∧ y = .next (t.withNH n h)

theorem nextButNH_of_commutes {f : State → State} {s : State} {n h : Bool} (hf : f (s.withNH n h) = (f s).withNH n h) :
    NextButNH (.next (f s)) (.next (f (s.withNH n h))) := ⟨f s, n, h, rfl, by rw [hf]⟩

theorem nextButNH_of_computes {f : State → State} {s : State} {n h : Bool} (hf : f (s.withNH n h) = f s) :
    NextButNH (.next (f s)) (.next (f (s.withNH n h))) := ⟨f s, (f s).flags.n, (f s).flags.h, rfl, by rw [hf]; rfl⟩

theorem nextButNH_commit {f : State → Except FaultRecord State} {s : State} {n h : Bool}
    (hf : f (s.withNH n h) = (f s).map fun t => t.withNH n h) :
    NextButNH (commit s (f s)) (commit (s.withNH n h) (f (s.withNH n h))) := by
  rw [hf]
  cases f s with
  | error r => exact ⟨s.raise r, n, h, rfl, rfl⟩
  | ok t => exact ⟨t, n, h, rfl, rfl⟩

theorem runSecondary_withNH (op2 : Byte) (s : State) (n h : Bool) :
    NextButNH (runSecondary op2 s) (runSecondary op2 (s.withNH n h)) := by
  unfold runSecondary
  cases secondary op2 with
  | none => exact ⟨_, n, h, rfl, rfl⟩
  | some c =>
    cases c with
    | rl r => exact nextButNH_of_computes (rotateReg_withNH r _ s n h)
    | bit b r => exact nextButNH_of_computes (testBit_withNH b r s n h)

/-- No instruction reads F.N or F.H (R21). -/
theorem exec_withNH (i : Instr) (s : State) (n h : Bool) : NextButNH (exec i s) (exec i (s.withNH n h)) := by
  cases i with
  | incB | incC | incD | incE | incH | incL | incA => exact nextButNH_of_computes (incReg_withNH _ s n h)
  | decB | decC | decD | decE | decH | decL | decA => exact nextButNH_of_computes (decReg_withNH _ s n h)
  | ldBImm v | ldCImm v | ldDImm v | ldEImm v | ldHImm v | ldLImm v | ldAImm v =>
    exact nextButNH_of_commutes (loadImm8_withNH _ v s n h)
  | ldBcImm nn | ldDeImm nn | ldHlImm nn => exact nextButNH_of_commutes (loadImmPair_withNH _ nn s n h)
  | ldSpImm nn => exact nextButNH_of_commutes (f := loadImmSp nn) rfl
  | ldHlA | ldHlIncA | ldHlDecA => exact nextButNH_commit (storeAtHl_withNH _ s n h)
  | ldAHl | ldAHlInc | ldAHlDec => exact nextButNH_commit (loadFromHl_withNH _ s n h)
  | rla | rlB | rlC | rlD | rlE | rlH | rlL | rlA => exact nextButNH_of_computes (rotateReg_withNH _ _ s n h)
  | xorA => exact nextButNH_of_computes (f := xorSelf) rfl
  | cpImm v => exact nextButNH_of_computes (f := compareImm v) rfl
  | jr e | jrNz e | jrZ e => exact nextButNH_of_commutes (relJump_withNH _ e s n h)
  | pushBc | pushDe | pushHl => exact nextButNH_commit (pushPair_withNH _ s n h)
  | popBc | popDe | popHl => exact nextButNH_commit (popPair_withNH _ s n h)
  | call nn => exact nextButNH_commit (callTo_withNH nn s n h)
  | ret => exact nextButNH_commit (returnToCaller_withNH s n h)
  | prefixCb op2 => exact runSecondary_withNH op2 s n h
  | _ => exact nextButNH_of_computes (testBit_withNH _ _ s n h)

/-- The fetch reads through the bus only (R100). -/
theorem fetch_withNH (s : State) (n h : Bool) : (s.withNH n h).fetch = s.fetch := by
  simp only [State.fetch, memRead_withNH, withNH_pc]

/-- Settles O55: the step from either state fetches the same instruction (`fetch_withNH`) and runs it to states that differ in
the two flags only (`exec_withNH`). -/
theorem subtractAndHalfCarryAreNotRead : Obligations.SubtractAndHalfCarryAreNotRead := by
  intro s t n h hstep
  have hs : s.fault = none := (step_cases hstep).1
  cases hf : s.fetch with
  | error r =>
    rw [step_of_fetch_fault hs hf] at hstep
    cases hstep
    exact ⟨n, h, step_of_fetch_fault (s := s.withNH n h) hs ((fetch_withNH s n h).trans hf)⟩
  | ok i =>
    obtain ⟨u, n', h', hx, hx'⟩ := exec_withNH i s n h
    rw [step_of_fetch_ok hs hf hx] at hstep
    cases hstep
    refine ⟨n', h', (step_of_fetch_ok (s := s.withNH n h) hs ((fetch_withNH s n h).trans hf) hx').trans ?_⟩
    rw [settle_withNH]; rfl

end Sys2Proof.Machine
end

section
/-! The seven registers (R20) and 8-bit decrement (R131): O12, O15 and O16. -/
namespace Sys2Proof.Machine

@[simp] theorem reg8_setReg8_same (s : State) (r : Reg8) (v : Byte) : (s.setReg8 r v).reg8 r = v := by
  rw [reg8_setReg8, if_pos rfl]

/-- Settles O12: `reg8_setReg8` for the registers, the frame lemmas of `setReg8` for every other field. -/
theorem registersAreIndependent : Obligations.RegistersAreIndependent := by
  intro s r v
  refine ⟨reg8_setReg8_same s r v, fun q hq => ?_, setReg8_flags s r v, setReg8_sp s r v, setReg8_pc s r v,
    setReg8_fault s r v, setReg8_mem s r v, setReg8_lcd s r v, setReg8_snd s r v, setReg8_steps s r v⟩
  rw [reg8_setReg8, if_neg hq.symm]

/-- Every `DEC r` is the one shared decrement of its register. -/
theorem exec_decOf (r : Reg8) (s : State) : exec (Instr.decOf r) s = .next (decReg r s) := by
  cases r <;> rfl

/-- The difference of R131 on bytes is the sum with 255 on naturals, modulo 256. -/
theorem byte_sub_one (v : Byte) : v - 1#8 = BitVec.ofNat 8 (v.toNat + 255) := by
  apply BitVec.eq_of_toNat_eq
  rw [BitVec.toNat_sub, BitVec.toNat_ofNat, Nat.add_comm]; rfl

/-- The flags of R131 as arithmetic on the old value. -/
theorem decFlags_eq (v : Byte) (f : Flags) : decFlags v f =
    { z := decide ((v.toNat + 255) % 256 = 0), n := true, h := decide (v.toNat % 16 ≠ 0), c := f.c } := by
  have hz : (v - 1#8 == 0#8) = decide ((v.toNat + 255) % 256 = 0) := by
    rw [byte_sub_one, beq_eq_decide, decide_eq_decide, BitVec.toNat_eq, BitVec.toNat_ofNat]; rfl
  have hh : (lowNibble v != 0x0#4) = decide (v.toNat % 16 ≠ 0) := by
    rw [bne, beq_eq_decide, ← decide_not, decide_eq_decide, BitVec.toNat_eq, lowNibble_toNat]; rfl
  rw [decFlags, hz, hh]

/-- The decrement as one record update: the register, the flags and PC. -/
theorem decReg_eq (r : Reg8) (s : State) : decReg r s =
    { s.setReg8 r (s.reg8 r - 1#8) with flags := decFlags (s.reg8 r) s.flags, pc := s.pc + 1#16 } := by
  simp only [decReg, State.advance, State.setPc, State.setFlags, setReg8_pc]

/-- Settles O15: the shared decrement (`exec_decOf`, `decReg_eq`), its difference (`byte_sub_one`) and its flags (`decFlags_eq`)
as arithmetic on the old value. -/
theorem decrementResult : Obligations.DecrementResult := by
  intro r s
  rw [exec_decOf, decReg_eq, decFlags_eq, byte_sub_one]

theorem reg8_incReg (r q : Reg8) (s : State) : (incReg r s).reg8 q = if r = q then s.reg8 r + 1#8 else s.reg8 q := by
  simp [incReg, reg8_setReg8]

theorem reg8_decReg (r q : Reg8) (s : State) : (decReg r s).reg8 q = if r = q then s.reg8 r - 1#8 else s.reg8 q := by
  simp [decReg, reg8_setReg8]

@[simp] theorem incReg_flags (r : Reg8) (s : State) : (incReg r s).flags = incFlags (s.reg8 r) s.flags := rfl
@[simp] theorem decReg_flags (r : Reg8) (s : State) : (decReg r s).flags = decFlags (s.reg8 r) s.flags := rfl

theorem reg8_decReg_incReg (r q : Reg8) (s : State) : (decReg r (incReg r s)).reg8 q = s.reg8 q := by
  by_cases h : r = q
  · subst h; simp only [reg8_decReg, reg8_incReg, if_true, BitVec.add_sub_cancel]
  · simp only [reg8_decReg, reg8_incReg, if_neg h]

theorem reg8_incReg_decReg (r q : Reg8) (s : State) : (incReg r (decReg r s)).reg8 q = s.reg8 q := by
  by_cases h : r = q
  · subst h; simp only [reg8_incReg, reg8_decReg, if_true, BitVec.sub_add_cancel]
  · simp only [reg8_incReg, reg8_decReg, if_neg h]

/-- The flags of `DEC r` on an incremented value (R130, R131). -/
theorem decFlags_incFlags (v : Byte) (f : Flags) : decFlags (v + 1#8) (incFlags v f) =
    { z := decide (v = 0#8), n := true, h := decide (v.toNat % 16 ≠ 15), c := f.c } := by
  have hz : (v + 1#8 - 1#8 == 0#8) = decide (v = 0#8) := by rw [BitVec.add_sub_cancel, beq_eq_decide]
  have hh : (lowNibble (v + 1#8) != 0x0#4) = decide (v.toNat % 16 ≠ 15) := by
    rw [bne, beq_eq_decide, ← decide_not, decide_eq_decide, BitVec.toNat_eq, lowNibble_toNat, BitVec.toNat_add]
    simp only [BitVec.toNat_ofNat]
    omega
  rw [decFlags, hz, hh]
  rfl

/-- Settles O16: each pair restores the registers, and the second operation's flags are its own on the value the first left. -/
theorem incrementDecrementRestores : Obligations.IncrementDecrementRestores := by
  intro r s
  refine ⟨⟨_, _, exec_incOf r s, exec_decOf r _, fun q => reg8_decReg_incReg r q s, ?_⟩,
    ⟨_, _, exec_decOf r s, exec_incOf r _, fun q => reg8_incReg_decReg r q s, ?_, rfl⟩⟩
  · rw [decReg_flags, incReg_flags, reg8_incReg, if_pos rfl, decFlags_incFlags]
  · rw [incReg_flags, decReg_flags, reg8_decReg, if_pos rfl, incFlags, BitVec.sub_add_cancel, beq_eq_decide]

end Sys2Proof.Machine
end

section
/-! Rotations (R150, R171) and `JR e` (R160): O22, O34 and O25. -/
namespace Sys2Proof.Machine

/-- The rotation shifts the carry in at the low end (R150). -/
theorem rotL_eq_shiftConcat (v : Byte) (c : Bool) : rotL v c = v.shiftConcat c := by
  ext i
  cases c <;> by_cases hi : i = 0 <;> simp [rotL, BitVec.getElem_shiftConcat, hi]

/-- The rotation of R150 as arithmetic: twice the value plus the carry, modulo 256. -/
theorem rotL_eq (v : Byte) (c : Bool) : rotL v c = BitVec.ofNat 8 (2 * v.toNat + c.toNat) := by
  apply BitVec.eq_of_toNat_eq
  rw [rotL_eq_shiftConcat, BitVec.toNat_shiftConcat, BitVec.toNat_ofNat, Nat.shiftLeft_eq, Nat.mul_comm]

/-- The flags of R150 as arithmetic on the old value and the carry. -/
theorem rotLFlags_eq (v : Byte) (c : Bool) : rotLFlags v c =
    { z := decide ((2 * v.toNat + c.toNat) % 256 = 0), n := false, h := false, c := decide (128 ≤ v.toNat) } := by
  have hz : (rotL v c == 0#8) = decide ((2 * v.toNat + c.toNat) % 256 = 0) := by
    rw [rotL_eq, beq_eq_decide, decide_eq_decide, BitVec.toNat_eq, BitVec.toNat_ofNat]; rfl
  have hc : v.getLsbD 7 = decide (128 ≤ v.toNat) := BitVec.msb_eq_decide v
  rw [rotLFlags, hz, hc]

/-- The rotation as one record update: the register, the flags and PC. -/
theorem rotateReg_eq (r : Reg8) (len : Word) (s : State) : rotateReg r len s =
    { s.setReg8 r (rotL (s.reg8 r) s.flags.c) with flags := rotLFlags (s.reg8 r) s.flags.c, pc := s.pc + len } := by
  simp only [rotateReg, State.advance, State.setPc, State.setFlags, setReg8_pc]

/-- Every `RL r` is the one shared rotation of its register. -/
theorem exec_rlOf (r : Reg8) (s : State) : exec (Instr.rlOf r) s = .next (rotateReg r 2#16 s) := by
  cases r <;> rfl

theorem exec_rla (s : State) : exec .rla s = .next (rotateReg .a 1#16 s) := rfl

/-- Settles O22: the shared rotation (`rotateReg_eq`) of A, its value and flags as arithmetic (`rotL_eq`, `rotLFlags_eq`). -/
theorem rotateAResult : Obligations.RotateAResult := by
  intro s
  rw [exec_rla, rotateReg_eq, rotL_eq, rotLFlags_eq]; rfl

/-- Settles O34: the shared rotation (`exec_rlOf`, `rotateReg_eq`), its value and flags as arithmetic (`rotL_eq`,
`rotLFlags_eq`). -/
theorem rotateRegisterResult : Obligations.RotateRegisterResult := by
  intro r s
  rw [exec_rlOf, rotateReg_eq, rotL_eq, rotLFlags_eq]

theorem exec_jr (e : Byte) (s : State) : exec (.jr e) s = .next (relJump true e s) := rfl

/-- Settles O25: `relJump_taken`. -/
theorem jumpRelative : Obligations.JumpRelative := by
  intro e s
  rw [exec_jr, relJump_taken]

end Sys2Proof.Machine
end

section
/-! Loads and stores (R140 to R147): O18, O19, O20 and O21. -/
namespace Sys2Proof.Machine

/-- Settles O18: each load is one record update. -/
theorem loadImmediateWord : Obligations.LoadImmediateWord := fun _ _ => ⟨rfl, rfl, rfl, rfl⟩

/-- The store through HL by what it does to HL. -/
def storeInstr : HlUse → Instr
  | .keep => .ldHlA
  | .inc => .ldHlIncA
  | .dec => .ldHlDecA

/-- The load through HL by what it does to HL. -/
def loadInstr : HlUse → Instr
  | .keep => .ldAHl
  | .inc => .ldAHlInc
  | .dec => .ldAHlDec

theorem exec_storeInstr (use : HlUse) (s : State) : exec (storeInstr use) s = commit s (storeAtHl use s) := by
  cases use <;> rfl

theorem exec_loadInstr (use : HlUse) (s : State) : exec (loadInstr use) s = commit s (loadFromHl use s) := by
  cases use <;> rfl

/-- A store through HL that the bus accepts, as one record update (R142, R144, R146). -/
theorem exec_store_ok (use : HlUse) {s w : State} (hw : s.memWrite (s.pair .hl) s.a = .ok w) :
    exec (storeInstr use) s = .next { w.stepHl use (s.pair .hl) with pc := s.pc + 1#16 } := by
  obtain ⟨_, _, _, hpc, _, _⟩ := memWrite_frame hw
  simp only [exec_storeInstr, storeAtHl, hw, commit, State.advance, State.setPc, stepHl_pc, hpc]

theorem exec_store_fault (use : HlUse) {s : State} {r : FaultRecord} (hr : s.memWrite (s.pair .hl) s.a = .error r) :
    exec (storeInstr use) s = .next { s with fault := some r } := by
  simp only [exec_storeInstr, storeAtHl, hr, commit, State.raise]

/-- A load through HL that the bus answers, as one record update (R143, R145, R147). -/
theorem exec_load_ok (use : HlUse) {s : State} {v : Byte} (hv : s.memRead (s.pair .hl) = .ok v) :
    exec (loadInstr use) s = .next { (s.setReg8 .a v).stepHl use (s.pair .hl) with pc := s.pc + 1#16 } := by
  simp only [exec_loadInstr, loadFromHl, hv, commit, State.advance, State.setPc, stepHl_pc, setReg8_pc]

theorem exec_load_fault (use : HlUse) {s : State} {r : FaultRecord} (hr : s.memRead (s.pair .hl) = .error r) :
    exec (loadInstr use) s = .next { s with fault := some r } := by
  simp only [exec_loadInstr, loadFromHl, hr, commit, State.raise]

/-- Settles O19: `exec_store_ok` and `exec_store_fault` for each use of HL. -/
theorem storeThroughHl : Obligations.StoreThroughHl := by
  intro s
  exact ⟨fun u hu => ⟨exec_store_ok .keep hu, exec_store_ok .inc hu, exec_store_ok .dec hu⟩,
    fun r hr => ⟨exec_store_fault .keep hr, exec_store_fault .inc hr, exec_store_fault .dec hr⟩⟩

/-- Settles O21: `exec_load_ok` and `exec_load_fault` for each use of HL. -/
theorem loadThroughHl : Obligations.LoadThroughHl := by
  intro s
  exact ⟨fun v hv => ⟨exec_load_ok .keep hv, exec_load_ok .inc hv, exec_load_ok .dec hv⟩,
    fun r hr => ⟨exec_load_fault .keep hr, exec_load_fault .inc hr, exec_load_fault .dec hr⟩⟩

/-- An access through HL changes no register but H and L. -/
theorem reg8_stepHl (s : State) (use : HlUse) (addr : Word) {q : Reg8} (hh : q ≠ .h) (hl : q ≠ .l) :
    (s.stepHl use addr).reg8 q = s.reg8 q := by
  cases use with
  | keep => rfl
  | inc | dec => exact (reg8_setPair s .hl _ q).trans ((if_neg hh).trans (if_neg hl))

/-- Settles O20: into a RAM the bus accepts the store (`memWrite_ram`), so `exec_store_ok` gives the next state; memory by
`read_write`, HL by the use of it. -/
theorem storeThroughHlMemory : Obligations.StoreThroughHlMemory := by
  intro i s hi hwf hram
  obtain ⟨use, rfl⟩ : ∃ use, i = storeInstr use := by
    simp only [List.mem_cons, List.not_mem_nil, or_false] at hi
    rcases hi with rfl | rfl | rfl
    · exact ⟨.keep, rfl⟩
    · exact ⟨.inc, rfl⟩
    · exact ⟨.dec, rfl⟩
  refine ⟨_, exec_store_ok use (memWrite_ram hram), ?_, fun k hk => ?_, fun hkeep => ?_, fun hinc => ?_, fun hdec => ?_, rfl,
    fun q hh hl => ?_, ?_, ?_, ?_, ?_, ?_, ?_⟩
  · rw [memRead_array (RamAddress.array hram)]
    simp [read_write _ _ _ hwf]
  · simp [read_write_other _ hk.symm]
  · cases use <;> cases hkeep; rfl
  · cases use <;> cases hinc; exact (pair_setPc _ _ .hl).trans (pair_setPair_same _ .hl _)
  · cases use <;> cases hdec; exact (pair_setPc _ _ .hl).trans (pair_setPair_same _ .hl _)
  · exact (reg8_setPc _ _ q).trans ((reg8_stepHl _ use _ hh hl).trans (by cases q <;> rfl))
  all_goals simp

end Sys2Proof.Machine
end

section
/-! The stack, calls and returns (R163 to R168): O27 to O33. -/
namespace Sys2Proof.Machine

@[simp] theorem hiByte_pair (s : State) (p : Pair) : hiByte (s.pair p) = s.reg8 (pairHi p) := hiByte_joinBytes _ _

@[simp] theorem loByte_pair (s : State) (p : Pair) : loByte (s.pair p) = s.reg8 (pairLo p) := loByte_joinBytes _ _

/-! ### The two writes of a push -/

theorem pushWrites_ok {s u w : State} {v : Word} (hhi : s.memWrite (s.sp - 1#16) (hiByte v) = .ok u)
    (hlo : u.memWrite (s.sp - 2#16) (loByte v) = .ok w) : s.pushWrites v = .ok w := by
  rw [State.pushWrites, hhi]; exact hlo

theorem pushWrites_first_fault {s : State} {v : Word} {r : FaultRecord}
    (hhi : s.memWrite (s.sp - 1#16) (hiByte v) = .error r) : s.pushWrites v = .error r := by
  rw [State.pushWrites, hhi]; rfl

theorem pushWrites_second_fault {s u : State} {v : Word} {r : FaultRecord}
    (hhi : s.memWrite (s.sp - 1#16) (hiByte v) = .ok u) (hlo : u.memWrite (s.sp - 2#16) (loByte v) = .error r) :
    s.pushWrites v = .error r := by
  rw [State.pushWrites, hhi]; exact hlo

theorem pushWrites_ram {s : State} (v : Word) (hhi : RamAddress (s.sp - 1#16).toNat)
    (hlo : RamAddress (s.sp - 2#16).toNat) : s.pushWrites v = .ok { s with
      mem := (s.mem.write (s.sp - 1#16).toNat (hiByte v)).write (s.sp - 2#16).toNat (loByte v) } :=
  pushWrites_ok (memWrite_ram hhi) (memWrite_ram hlo)

/-- The two writes leave PC (R62). -/
theorem pushWrites_pc {s w : State} {v : Word} (h : s.pushWrites v = .ok w) : w.pc = s.pc := by
  have hpush : s.push16 v = .ok (w.setSp (s.sp - 2#16)) := by rw [push16_eq, h]; rfl
  exact (push16_frame hpush).2.2.2.1

/-! ### The instructions -/

theorem exec_pushOf (p : Pair) (s : State) : exec (Instr.pushOf p) s = commit s (pushPair p s) := by
  cases p <;> rfl

theorem exec_popOf (p : Pair) (s : State) : exec (Instr.popOf p) s = commit s (popPair p s) := by
  cases p <;> rfl

theorem exec_call (nn : Word) (s : State) : exec (.call nn) s = commit s (callTo nn s) := rfl

theorem exec_ret (s : State) : exec .ret s = commit s (returnToCaller s) := rfl

theorem exec_pushOf_ok {p : Pair} {s w : State} (h : s.pushWrites (s.pair p) = .ok w) :
    exec (Instr.pushOf p) s = .next { w with sp := s.sp - 2#16, pc := s.pc + 1#16 } := by
  rw [exec_pushOf, pushPair_eq_map, push16_eq, h, ← pushWrites_pc h]; rfl

theorem exec_pushOf_fault {p : Pair} {s : State} {r : FaultRecord} (h : s.pushWrites (s.pair p) = .error r) :
    exec (Instr.pushOf p) s = .next { s with fault := some r } := by
  rw [exec_pushOf, pushPair_eq_map, push16_eq, h]; rfl

theorem exec_call_ok {nn : Word} {s w : State} (h : s.pushWrites (s.pc + 3#16) = .ok w) :
    exec (.call nn) s = .next { w with sp := s.sp - 2#16, pc := nn } := by
  rw [exec_call, callTo_eq_map, push16_eq, h]; rfl

theorem exec_call_fault {nn : Word} {s : State} {r : FaultRecord} (h : s.pushWrites (s.pc + 3#16) = .error r) :
    exec (.call nn) s = .next { s with fault := some r } := by
  rw [exec_call, callTo_eq_map, push16_eq, h]; rfl

/-- Settles O27: the three outcomes of the two writes (`pushWrites_ok` and its two faults), carried through the push. -/
theorem pushResult : Obligations.PushResult := by
  intro p s
  rw [← hiByte_pair, ← loByte_pair]
  exact ⟨fun u w hhi hlo => exec_pushOf_ok (pushWrites_ok hhi hlo),
    fun r hhi => exec_pushOf_fault (pushWrites_first_fault hhi),
    fun u r hhi hlo => exec_pushOf_fault (pushWrites_second_fault hhi hlo)⟩

/-- Settles O28: the three outcomes of the two writes (`pushWrites_ok` and its two faults), carried through the call. -/
theorem callResult : Obligations.CallResult := by
  intro nn s
  exact ⟨fun u w hhi hlo => exec_call_ok (pushWrites_ok hhi hlo),
    fun r hhi => exec_call_fault (pushWrites_first_fault hhi),
    fun u r hhi hlo => exec_call_fault (pushWrites_second_fault hhi hlo)⟩

/-! ### The two reads of a pop -/

theorem pop16_ok {s : State} {lo hi : Byte} (hlo : s.memRead s.sp = .ok lo) (hhi : s.memRead (s.sp + 1#16) = .ok hi) :
    s.pop16 = .ok (joinBytes hi lo, s.setSp (s.sp + 2#16)) := by
  simp only [State.pop16, hlo, hhi]

theorem pop16_first_fault {s : State} {r : FaultRecord} (hlo : s.memRead s.sp = .error r) : s.pop16 = .error r := by
  simp only [State.pop16, hlo]

theorem pop16_second_fault {s : State} {lo : Byte} {r : FaultRecord} (hlo : s.memRead s.sp = .ok lo)
    (hhi : s.memRead (s.sp + 1#16) = .error r) : s.pop16 = .error r := by
  simp only [State.pop16, hlo, hhi]

theorem exec_popOf_ok {q : Pair} {s : State} {lo hi : Byte} (hlo : s.memRead s.sp = .ok lo)
    (hhi : s.memRead (s.sp + 1#16) = .ok hi) : exec (Instr.popOf q) s = .next
      (((s.setPair q (joinBytes hi lo)).setSp (s.sp + 2#16)).setPc (s.pc + 1#16)) := by
  rw [exec_popOf, popPair, pop16_ok hlo hhi]
  cases q <;> rfl

theorem exec_popOf_fault {q : Pair} {s : State} {r : FaultRecord} (h : s.pop16 = .error r) :
    exec (Instr.popOf q) s = .next { s with fault := some r } := by
  rw [exec_popOf, popPair, h]; rfl

theorem exec_ret_ok {s : State} {lo hi : Byte} (hlo : s.memRead s.sp = .ok lo) (hhi : s.memRead (s.sp + 1#16) = .ok hi) :
    exec .ret s = .next { s with pc := joinBytes hi lo, sp := s.sp + 2#16 } := by
  rw [exec_ret, returnToCaller, pop16_ok hlo hhi]; rfl

theorem exec_ret_fault {s : State} {r : FaultRecord} (h : s.pop16 = .error r) :
    exec .ret s = .next { s with fault := some r } := by
  rw [exec_ret, returnToCaller, h]; rfl

/-- Settles O30: the three outcomes of the two reads (`pop16_ok` and its two faults), carried through the pop. -/
theorem popResult : Obligations.PopResult := by
  intro p s
  refine ⟨fun lo hi hlo hhi => ?_, fun r hlo => exec_popOf_fault (pop16_first_fault hlo),
    fun lo r hlo hhi => exec_popOf_fault (pop16_second_fault hlo hhi)⟩
  rw [exec_popOf_ok hlo hhi, State.setPair, hiByte_joinBytes, loByte_joinBytes]; rfl

/-- Settles O31: the three outcomes of the two reads (`pop16_ok` and its two faults), carried through the return. -/
theorem returnResult : Obligations.ReturnResult := by
  intro s
  exact ⟨fun lo hi hlo hhi => exec_ret_ok hlo hhi, fun r hlo => exec_ret_fault (pop16_first_fault hlo),
    fun lo r hlo hhi => exec_ret_fault (pop16_second_fault hlo hhi)⟩

/-! ### Pushes into a RAM -/

/-- `s` after a push of `v` into a RAM by an instruction that leaves PC at `pc'`. -/
def State.pushed (s : State) (v pc' : Word) : State :=
  { s with sp := s.sp - 2#16, pc := pc',
           mem := (s.mem.write (s.sp - 1#16).toNat (hiByte v)).write (s.sp - 2#16).toNat (loByte v) }

section
variable {s : State} (hwf : s.mem.wf = true) (hhi : RamAddress (s.sp - 1#16).toNat) (hlo : RamAddress (s.sp - 2#16).toNat)

include hhi hlo in
theorem exec_pushOf_ram (p : Pair) : exec (Instr.pushOf p) s = .next (s.pushed (s.pair p) (s.pc + 1#16)) :=
  exec_pushOf_ok (pushWrites_ram _ hhi hlo)

include hhi hlo in
theorem exec_call_ram (nn : Word) : exec (.call nn) s = .next (s.pushed (s.pc + 3#16) nn) :=
  exec_call_ok (pushWrites_ram _ hhi hlo)

include hwf hlo in
theorem memRead_pushed_lo (v pc' : Word) : (s.pushed v pc').memRead (s.sp - 2#16) = .ok (loByte v) := by
  rw [memRead_array (RamAddress.array hlo), State.pushed, read_write _ _ _ (wf_write _ _ hwf), if_pos rfl]

include hwf hhi in
theorem memRead_pushed_hi (v pc' : Word) : (s.pushed v pc').memRead (s.sp - 1#16) = .ok (hiByte v) := by
  have hne : (s.sp - 2#16).toNat ≠ (s.sp - 1#16).toNat := by bv_omega
  rw [memRead_array (RamAddress.array hhi), State.pushed, read_write_other _ hne, read_write _ _ _ hwf, if_pos rfl]

theorem read_pushed_other (v pc' : Word) {k : Nat} (h1 : k ≠ (s.sp - 1#16).toNat) (h2 : k ≠ (s.sp - 2#16).toNat) :
    (s.pushed v pc').mem.read k = s.mem.read k := by
  rw [State.pushed, read_write_other _ h2.symm, read_write_other _ h1.symm]

end

/-- Settles O29: each of the four instructions leaves `State.pushed` (`exec_pushOf_ram`, `exec_call_ram`), whose bytes are the two
halves pushed. -/
theorem pushedBytesAndFrame : Obligations.PushedBytesAndFrame := by
  intro i v pc' s hi hwf hhi hlo
  have hx : exec i s = .next (s.pushed v pc') := by
    rcases hi with ⟨rfl, rfl, rfl⟩ | ⟨rfl, rfl, rfl⟩ | ⟨rfl, rfl, rfl⟩ | ⟨rfl, rfl⟩
    · exact exec_pushOf_ram hhi hlo .bc
    · exact exec_pushOf_ram hhi hlo .de
    · exact exec_pushOf_ram hhi hlo .hl
    · exact exec_call_ram hhi hlo pc'
  exact ⟨_, hx, memRead_pushed_hi hwf hhi v pc', memRead_pushed_lo hwf hlo v pc', fun k => read_pushed_other v pc', rfl, rfl,
    fun q => by cases q <;> rfl, rfl, rfl, rfl, rfl, rfl⟩

/-- Settles O32: the pop reads back the two bytes pushed (`memRead_pushed_lo`, `memRead_pushed_hi`). -/
theorem pushThenPop : Obligations.PushThenPop := by
  intro p q s hwf hhi hlo
  have hsp : s.sp - 2#16 + 1#16 = s.sp - 1#16 := by bv_omega
  have hrhi := memRead_pushed_hi hwf hhi (s.pair p) (s.pc + 1#16)
  rw [← hsp] at hrhi
  refine ⟨_, _, exec_pushOf_ram hhi hlo p, exec_popOf_ok (memRead_pushed_lo hwf hlo _ _) hrhi, ?_, ?_, ?_⟩
  · rw [pair_setPc, pair_setSp, pair_setPair_same, joinBytes_hi_lo]
  · exact BitVec.sub_add_cancel s.sp 2#16
  · exact BitVec.add_assoc s.pc 1#16 1#16

/-- Settles O33: the return reads the two bytes the call pushed, which the subroutine kept (`memRead_pushed_lo`,
`memRead_pushed_hi`). -/
theorem callThenReturn : Obligations.CallThenReturn := by
  intro nn s hwf hhi hlo
  refine ⟨_, exec_call_ram hhi hlo nn, rfl, fun w hsp hrlo hrhi => ?_⟩
  have hsp1 : s.sp - 2#16 + 1#16 = s.sp - 1#16 := by bv_omega
  have hwsp : w.sp = s.sp - 2#16 := hsp
  have hwlo : w.memRead w.sp = .ok (loByte (s.pc + 3#16)) := by
    rw [hwsp]; exact hrlo.trans (memRead_pushed_lo hwf hlo _ _)
  have hwhi : w.memRead (w.sp + 1#16) = .ok (hiByte (s.pc + 3#16)) := by
    rw [hwsp]; refine hrhi.trans ?_
    exact (congrArg _ hsp1).trans (memRead_pushed_hi hwf hhi _ _)
  refine ⟨_, exec_ret_ok hwlo hwhi, joinBytes_hi_lo _, ?_⟩
  show w.sp + 2#16 = s.sp
  rw [hwsp, BitVec.sub_add_cancel]

end Sys2Proof.Machine
end

section
/-! The prefixed instructions (R170) and the flags an instruction leaves (R21): O36 and O56. -/
namespace Sys2Proof.Machine

/-- Settles O36: the secondary table has each operation at its own opcode (`secondary_opcode`), and no entry for an unregistered
byte. -/
theorem prefixMeaning : Obligations.PrefixMeaning := by
  refine ⟨fun r s => ?_, fun b r s => ?_, fun op2 s hunreg => exec_prefixCb_unregistered s hunreg⟩
  · have hsec := secondary_opcode (.rl r)
    rw [CbOp.opcode] at hsec
    rw [exec_prefixCb, runSecondary, hsec, exec_rlOf]
  · have hsec := secondary_opcode (.bit b r)
    rw [CbOp.opcode] at hsec
    rw [exec_prefixCb, runSecondary, hsec, exec_bitOf]

/-- A raise leaves the flags, so an instruction that may fault keeps them when its committed copy does (R9). -/
theorem commit_flags {s t : State} {x : Except FaultRecord State} (hx : ∀ u, x = .ok u → u.flags = s.flags)
    (h : commit s x = .next t) : t.flags = s.flags := by
  rcases commit_cases h with ⟨r, _, rfl⟩ | hok
  · rfl
  · exact hx t hok

theorem storeAtHl_flags {use : HlUse} {s t : State} (h : storeAtHl use s = .ok t) : t.flags = s.flags := by
  obtain ⟨w, hw, rfl⟩ := storeAtHl_cases h
  obtain ⟨_, hflags, _⟩ := memWrite_frame hw
  rw [advance_flags, stepHl_flags, hflags]

theorem loadFromHl_flags {use : HlUse} {s t : State} (h : loadFromHl use s = .ok t) : t.flags = s.flags := by
  obtain ⟨v, _, rfl⟩ := loadFromHl_cases h
  rw [advance_flags, stepHl_flags, setReg8_flags]

theorem pushPair_flags {p : Pair} {s t : State} (h : pushPair p s = .ok t) : t.flags = s.flags := by
  unfold pushPair at h
  cases hpush : s.push16 (s.pair p) <;> rw [hpush] at h <;> cases h
  exact (push16_frame hpush).2.1

theorem callTo_flags {nn : Word} {s t : State} (h : callTo nn s = .ok t) : t.flags = s.flags := by
  unfold callTo at h
  cases hpush : s.push16 (s.pc + 3#16) <;> rw [hpush] at h <;> cases h
  exact (push16_frame hpush).2.1

theorem popPair_flags {q : Pair} {s t : State} (h : popPair q s = .ok t) : t.flags = s.flags := by
  unfold popPair at h
  cases hpop : s.pop16 <;> rw [hpop] at h <;> cases h
  obtain ⟨_, _, _, _, _, hu⟩ := pop16_cases hpop
  simp [hu]

theorem returnToCaller_flags {s t : State} (h : returnToCaller s = .ok t) : t.flags = s.flags := by
  unfold returnToCaller at h
  cases hpop : s.pop16 <;> rw [hpop] at h <;> cases h
  obtain ⟨_, _, _, _, _, hu⟩ := pop16_cases hpop
  simp [hu]

theorem relJump_flags (c : Bool) (e : Byte) (s : State) : (relJump c e s).flags = s.flags := by cases c <;> rfl

theorem exec_ldPairImmOf (p : Pair) (nn : Word) (s : State) :
    exec (Instr.ldPairImmOf p nn) s = .next (loadImmPair p nn s) := by cases p <;> rfl

/-- The accesses through HL and RET leave all four flags (R21). -/
theorem exec_access_flags {i : Instr} {s t : State}
    (hi : i ∈ [Instr.ldHlA, .ldAHl, .ldHlIncA, .ldAHlInc, .ldHlDecA, .ldAHlDec, .ret]) (h : exec i s = .next t) :
    t.flags = s.flags := by
  simp only [List.mem_cons, List.not_mem_nil, or_false] at hi
  rcases hi with rfl | rfl | rfl | rfl | rfl | rfl | rfl
  · exact commit_flags (fun _ => storeAtHl_flags) h
  · exact commit_flags (fun _ => loadFromHl_flags) h
  · exact commit_flags (fun _ => storeAtHl_flags) h
  · exact commit_flags (fun _ => loadFromHl_flags) h
  · exact commit_flags (fun _ => storeAtHl_flags) h
  · exact commit_flags (fun _ => loadFromHl_flags) h
  · exact commit_flags (fun _ => returnToCaller_flags) h

/-- Settles O56: the frame of each family's shared operation, and the carry flag kept by the flags of INC, DEC and BIT. -/
theorem flagFrame : Obligations.FlagFrame := by
  refine ⟨fun i s t h hi => ?_, fun i s t h hi => ?_⟩
  · rcases hi with ⟨r, n, rfl⟩ | ⟨p, nn, rfl⟩ | ⟨nn, rfl⟩ | hmem | ⟨e, rfl | rfl | rfl⟩ | ⟨p, rfl | rfl⟩ | ⟨nn, rfl⟩
    · rw [exec_ldImmOf] at h; cases h; simp [loadImm8]
    · rw [exec_ldPairImmOf] at h; cases h; simp [loadImmPair]
    · cases h; rfl
    · exact exec_access_flags hmem h
    · cases h; exact relJump_flags _ e s
    · cases h; exact relJump_flags _ e s
    · cases h; exact relJump_flags _ e s
    · rw [exec_pushOf] at h; exact commit_flags (fun _ => pushPair_flags) h
    · rw [exec_popOf] at h; exact commit_flags (fun _ => popPair_flags) h
    · exact commit_flags (fun _ => callTo_flags) h
  · rcases hi with ⟨r, rfl | rfl⟩ | ⟨b, r, rfl⟩
    · rw [exec_incOf] at h; cases h; rfl
    · rw [exec_decOf] at h; cases h; rfl
    · rw [exec_bitOf] at h; cases h; rfl

end Sys2Proof.Machine
end

section
/-! The step (R100, R108): O6, O7, O9 and O11. -/
namespace Sys2Proof

/-- The bytes after it do not matter to whether an opcode is registered (R108). -/
theorem primary_of_unregistered {op : Byte} (h : decode [op] = .error (.unregistered op)) : primary op = none := by
  cases hp : primary op with
  | none => rfl
  | some e => cases e <;> simp [decode, hp] at h

/-- An instruction that wants a third byte has a word immediate (R101). -/
theorem primary_of_two_truncated {op b : Byte} (h : decode [op, b] = .error .truncated) :
    ∃ f, primary op = some (.imm16 f) := by
  cases hp : primary op with
  | none => simp [decode, hp] at h
  | some e =>
    cases e with
    | imm16 f => exact ⟨f, rfl⟩
    | plain i | imm8 f | secondaryTable => simp [decode, hp] at h

end Sys2Proof

namespace Sys2Proof.Machine

theorem fetch_first_fault {s : State} {r : FaultRecord} (hr : s.memRead s.pc = .error r) : s.fetch = .error r := by
  simp only [State.fetch, hr]

theorem fetch_unregistered {s : State} {op : Byte} (hop : s.memRead s.pc = .ok op) (hp : primary op = none) :
    s.fetch = .error (.decodeFault .primary op s.pc) := by
  simp only [State.fetch, hop, hp]

theorem fetch_third_fault {s : State} {op b : Byte} {r : FaultRecord} (hop : s.memRead s.pc = .ok op)
    (hb : s.memRead (s.pc + 1#16) = .ok b) (hmore : decode [op, b] = .error .truncated)
    (hr : s.memRead (s.pc + 2#16) = .error r) : s.fetch = .error r := by
  obtain ⟨f, hp⟩ := primary_of_two_truncated hmore
  simp only [State.fetch, hop, hp, hb, hr]

/-- Settles O7: each fault is that of the fetch, and a step whose fetch faults changes the latch only
(`step_of_fetch_fault`). -/
theorem fetchRaisesFirstFault : Obligations.FetchRaisesFirstFault := by
  intro s hs
  exact ⟨fun r hr => step_of_fetch_fault hs (fetch_first_fault hr),
    fun op hop hun => step_of_fetch_fault hs (fetch_unregistered hop (primary_of_unregistered hun)),
    fun op r hop hmore hr => step_of_fetch_fault hs (fetch_second_fault hop hmore hr),
    fun op b r hop hb hmore hr => step_of_fetch_fault hs (fetch_third_fault hop hb hmore hr)⟩

/-- Settles O9: `step_of_latched`. -/
theorem latchStopsTheMachine : Obligations.LatchStopsTheMachine := fun _ _ h => step_of_latched h

/-- Settles O6: the fetch gives the decoded instruction (`fetch_of_decode`), and `State.settle` says what follows it. -/
theorem stepRunsDecodedInstruction : Obligations.StepRunsDecodedInstruction := by
  intro s t n bs i hs hbytes hdec hx
  have hstep : step s = .next t.settle := step_of_fetch_ok hs (fetch_of_decode hbytes hdec) hx
  exact ⟨fun ht => by rw [hstep, settle_of_none ht], fun ht => by rw [hstep, settle_of_fault ht]⟩

theorem runSecondary_next (op2 : Byte) (s : State) : ∃ t, runSecondary op2 s = .next t := by
  unfold runSecondary
  cases secondary op2 with
  | none => exact ⟨_, rfl⟩
  | some c => cases c <;> exact ⟨_, rfl⟩

/-- Every instruction answers a next state: one that may fault by `commit_next`, the others by what they are. -/
theorem exec_next (i : Instr) (s : State) : ∃ t, exec i s = .next t := by
  cases i with
  | ldHlA | ldAHl | ldHlIncA | ldAHlInc | ldHlDecA | ldAHlDec | pushBc | pushDe | pushHl | popBc | popDe | popHl | call nn
  | ret => exact commit_next s _
  | prefixCb op2 => exact runSecondary_next op2 s
  | _ => exact ⟨_, rfl⟩

/-- Settles O11: an instruction by `exec_next`, a step by the two outcomes of its fetch. -/
theorem everyStepAnswers : Obligations.EveryStepAnswers := by
  refine ⟨exec_next, fun s hs => ?_⟩
  cases hf : s.fetch with
  | error r => exact ⟨_, step_of_fetch_fault hs hf⟩
  | ok i =>
    obtain ⟨t, hx⟩ := exec_next i s
    exact ⟨_, step_of_fetch_ok hs hf hx⟩

end Sys2Proof.Machine
end

section
/-! The open table of further handlers (R109): O59. -/
namespace Sys2Proof.Machine

/-- Where no further entry applies, the table does not matter (R109). -/
theorem stepWith_of_no_entry {ext : ExtHandlers} {s : State} (h : s.runExtension ext = none) :
    stepWith ext s = step s := by
  unfold step stepWith State.dispatch
  rw [h, runExtension_empty]

/-- What the step does where a further entry may apply, by the entry `o` and how its working copy ends; without one it is the
spec's own step, which raises `f` there (R9, R109, R191). -/
theorem stepWith_of_entry {ext : ExtHandlers} {s : State} {o : Option Handler} {n : Word} {f : FaultRecord}
    (hs : s.fault = none) (hrun : s.runExtension ext = o.map fun h => commit s (h.run (s.advance n)))
    (hstep : step s = .next { s with fault := some f }) :
    (o = none → stepWith ext s = .next { s with fault := some f }) ∧
    (∀ h t, o = some h → h.run (s.advance n) = .ok t → stepWith ext s = .next t.settle) ∧
    (∀ h r, o = some h → h.run (s.advance n) = .error r → stepWith ext s = .next { s with fault := some r }) := by
  refine ⟨?_, ?_, ?_⟩
  · rintro rfl
    exact (stepWith_of_no_entry hrun).trans hstep
  · rintro h t rfl hx
    simp only [stepWith, State.dispatch, hs, hrun, Option.map_some, hx, commit]
  · rintro h r rfl hx
    simp only [stepWith, State.dispatch, hs, hrun, Option.map_some, hx, commit]
    rw [settle_of_fault (by simp)]; rfl

theorem runExtension_unreadable {ext : ExtHandlers} {s : State} {r : FaultRecord} (hr : s.memRead s.pc = .error r) :
    s.runExtension ext = none := by
  simp only [State.runExtension, hr]

theorem runExtension_registered {ext : ExtHandlers} {s : State} {op : Byte} (hop : s.memRead s.pc = .ok op)
    (hin : op.toNat ∈ Claims.primaryValues) (hcb : op ≠ 0xCB#8) : s.runExtension ext = none := by
  cases hp : primary op with
  | none => exact absurd hin ((primary_eq_none_iff op).mp hp)
  | some e =>
    cases e with
    | secondaryTable => exact absurd (primary_encodesFrom hp) hcb
    | plain i | imm8 f | imm16 f => simp only [State.runExtension, hop, hp]

theorem runExtension_primary {ext : ExtHandlers} {s : State} {op : Byte} (hop : s.memRead s.pc = .ok op)
    (hp : primary op = none) : s.runExtension ext =
      (ext.primary op).map fun h => commit s (h.run (s.advance 1#16)) := by
  simp only [State.runExtension, hop, hp]

theorem primary_cb : primary 0xCB#8 = some .secondaryTable := rfl

theorem runExtension_secondary {ext : ExtHandlers} {s : State} {op2 : Byte} (hcb : s.memRead s.pc = .ok 0xCB#8)
    (hop2 : s.memRead (s.pc + 1#16) = .ok op2) (hun : registeredSecondary op2 = false) :
    s.runExtension ext = (ext.secondary op2).map fun h => commit s (h.run (s.advance 2#16)) := by
  simp only [State.runExtension, hcb, primary_cb, hop2, secondary_of_unregistered hun]

theorem runExtension_secondary_registered {ext : ExtHandlers} {s : State} (hcb : s.memRead s.pc = .ok 0xCB#8)
    (hreg : ∀ op2, s.memRead (s.pc + 1#16) = .ok op2 → registeredSecondary op2 = true) : s.runExtension ext = none := by
  cases hop2 : s.memRead (s.pc + 1#16) with
  | error r => simp only [State.runExtension, hcb, primary_cb, hop2]
  | ok op2 =>
    obtain ⟨c, hc⟩ := Option.isSome_iff_exists.mp ((registeredSecondary_eq op2).symm.trans (hreg op2 hop2))
    simp only [State.runExtension, hcb, primary_cb, hop2, hc]

/-- Settles O59: where `State.runExtension` finds no entry the step is the spec's own (`stepWith_of_no_entry`); outside the two
tables the step commits or raises as the entry does (`stepWith_of_entry`). -/
theorem extensionDispatch : Obligations.ExtensionDispatch := by
  intro ext s
  refine ⟨rfl, fun r hr => stepWith_of_no_entry (runExtension_unreadable hr),
    fun op hop hin hcb => stepWith_of_no_entry (runExtension_registered hop hin hcb),
    fun hcb hreg => stepWith_of_no_entry (runExtension_secondary_registered hcb hreg),
    fun op hs hop hout => ?_, fun op2 hs hcb hop2 hun => ?_⟩
  · have hp : primary op = none := (primary_eq_none_iff op).mpr hout
    exact stepWith_of_entry hs (runExtension_primary hop hp) (step_of_fetch_fault hs (fetch_unregistered hop hp))
  · obtain ⟨_, hunregistered, _⟩ := prefixDispatchesInOneStep s hs hcb
    exact stepWith_of_entry hs (runExtension_secondary hcb hop2 hun) (hunregistered op2 hop2 hun)

end Sys2Proof.Machine
end

section
/-! The address decoder, row by row (R61, R62): O37, O38 and O39. -/
namespace Sys2Proof.Machine

theorem memRead_unmapped {s : State} {addr : Word} (h : regionOf addr = .unmapped) :
    s.memRead addr = .error (.addressFault addr .read) := by simp only [State.memRead, h]

theorem memRead_sound {s : State} {addr : Word} (h : regionOf addr = .sound) :
    s.memRead addr = .error (.protocolViolation addr .unsupportedRegisterRead) := by simp only [State.memRead, h]

theorem memRead_lcd {s : State} {addr : Word} (h : regionOf addr = .lcd) : s.memRead addr = s.lcd.read addr := by
  simp only [State.memRead, h]

theorem memRead_lcd_other {s : State} {addr : Word} (h : regionOf addr = .lcd) (hne : addr.toNat ≠ 0xFF44) :
    s.memRead addr = .error (.protocolViolation addr .unsupportedRegisterRead) := by
  rw [memRead_lcd h, Lcd.read, if_neg (fun he => hne (congrArg BitVec.toNat he))]

/-- A read of the current line's register (R187). -/
theorem memRead_line (s : State) : s.memRead 0xFF44#16 = .ok (BitVec.ofNat 8 s.lcd.currentLine) := rfl

/-- Settles O37: `regionOf_ranges` turns each range into its row, `memRead_array` and its companions read the row. -/
theorem busReadRows : Obligations.BusReadRows := by
  intro s addr
  obtain ⟨_, _, _, _, hsound, hlcd, hunmapped⟩ := regionOf_ranges addr
  refine ⟨memRead_array, fun h => memRead_unmapped (hunmapped.mpr h), fun h => memRead_sound (hsound.mpr h), fun h => ?_,
    fun ⟨hlo, hhi, hne⟩ => memRead_lcd_other (hlcd.mpr ⟨hlo, hhi⟩) hne⟩
  rw [show addr = 0xFF44#16 from BitVec.eq_of_toNat_eq h]
  exact memRead_line s

theorem memWrite_to_rom {s : State} {addr : Word} {v : Byte} (h : regionOf addr = .rom) :
    s.memWrite addr v = .error (.writeProtectFault addr v) := by simp only [State.memWrite, h]

theorem memWrite_unmapped {s : State} {addr : Word} {v : Byte} (h : regionOf addr = .unmapped) :
    s.memWrite addr v = .error (.addressFault addr .write) := by simp only [State.memWrite, h]

/-- A write of the sound window is the sound controller's (R62). -/
theorem memWrite_sound {s : State} {addr : Word} {v : Byte} (h : regionOf addr = .sound) :
    s.memWrite addr v = (s.snd.write addr v).map fun d => { s with snd := d } := by
  simp only [State.memWrite, h]
  cases s.snd.write addr v <;> rfl

/-- A write of the LCD window is the LCD controller's (R62). -/
theorem memWrite_lcd {s : State} {addr : Word} {v : Byte} (h : regionOf addr = .lcd) :
    s.memWrite addr v = (s.lcd.write addr v).map fun l => { s with lcd := l } := by
  simp only [State.memWrite, h]
  cases s.lcd.write addr v <;> rfl

theorem ne_of_toNat_notMem {addr k : Word} {l : List Nat} (h : addr.toNat ∉ l) (hk : k.toNat ∈ l) : addr ≠ k :=
  fun he => h (he ▸ hk)

/-- An address of the sound window without a register refuses the write (R201, R208). -/
theorem Snd.write_unlisted {d : Snd} {addr : Word} {v : Byte}
    (h : addr.toNat ∉ [0xFF11, 0xFF12, 0xFF24, 0xFF25, 0xFF26]) :
    d.write addr v = .error (.protocolViolation addr .unsupportedRegisterWrite) := by
  rw [Snd.write, if_neg (ne_of_toNat_notMem h (by decide)), if_neg (ne_of_toNat_notMem h (by decide)),
    if_neg (ne_of_toNat_notMem h (by decide)), if_neg (ne_of_toNat_notMem h (by decide)),
    if_neg (ne_of_toNat_notMem h (by decide))]

/-- An address of the LCD window without a writable register refuses the write (R189). -/
theorem Lcd.write_unlisted {l : Lcd} {addr : Word} {v : Byte} (h : addr.toNat ∉ [0xFF40, 0xFF42, 0xFF43, 0xFF47]) :
    l.write addr v = .error (.protocolViolation addr .unsupportedRegisterWrite) := by
  rw [Lcd.write, if_neg (ne_of_toNat_notMem h (by decide)), if_neg (ne_of_toNat_notMem h (by decide)),
    if_neg (ne_of_toNat_notMem h (by decide)), if_neg (ne_of_toNat_notMem h (by decide))]

/-- Settles O38: `regionOf_ranges` turns each range into its row, `memWrite_ram` and its companions write the row. -/
theorem busWriteRows : Obligations.BusWriteRows := by
  intro s addr v
  obtain ⟨hrom, _, _, _, hsound, hlcd, hunmapped⟩ := regionOf_ranges addr
  refine ⟨fun h => memWrite_to_rom (hrom.mpr h), memWrite_ram, fun h => memWrite_unmapped (hunmapped.mpr h),
    fun ⟨hlo, hhi, hne⟩ => ?_, fun ⟨hlo, hhi, hne⟩ => ?_⟩
  · rw [memWrite_sound (hsound.mpr ⟨hlo, hhi⟩), Snd.write_unlisted hne]; rfl
  · rw [memWrite_lcd (hlcd.mpr ⟨hlo, hhi⟩), Lcd.write_unlisted hne]; rfl

/-- A byte of memory written elsewhere changes no read of the bus (R61). -/
theorem memRead_write_other {s : State} {addr other : Word} (v : Byte) (h : other ≠ addr) :
    ({ s with mem := s.mem.write addr.toNat v } : State).memRead other = s.memRead other := by
  have hne : addr.toNat ≠ other.toNat := fun he => h (BitVec.eq_of_toNat_eq he.symm)
  unfold State.memRead
  cases regionOf other with
  | rom | vram | wram | hram => exact congrArg Except.ok (read_write_other v hne)
  | sound | lcd | unmapped => rfl

/-- Settles O39: the write is one of memory (`memWrite_ram`), read back by `read_write` and invisible elsewhere
(`memRead_write_other`). -/
theorem ramReadAfterWrite : Obligations.RamReadAfterWrite := by
  intro s addr v hwf hram
  refine ⟨_, memWrite_ram hram, ?_, fun other hne => memRead_write_other v hne⟩
  rw [memRead_array (RamAddress.array hram), read_write _ _ _ hwf, if_pos rfl]

end Sys2Proof.Machine
end

section
/-! The device registers (R183 to R186, R201 to R206): O45, O46, O47 and O52. -/
namespace Sys2Proof.Machine

theorem getLsbD_eq_bit (v : Byte) (i : Nat) : v.getLsbD i = Claims.bit v i := Nat.testBit_eq_decide_div_mod_eq

/-- A field of a byte as arithmetic. -/
theorem field_toNat (v : Byte) (i n : Nat) : (v.extractLsb' i n).toNat = v.toNat / 2 ^ i % 2 ^ n := by
  rw [BitVec.extractLsb'_toNat, Nat.shiftRight_eq_div_pow]

/-- A field of a byte as the word of its value. -/
theorem field_eq_ofNat (v : Byte) (i n : Nat) : v.extractLsb' i n = BitVec.ofNat n (v.toNat / 2 ^ i % 2 ^ n) := by
  rw [← field_toNat, BitVec.ofNat_toNat, BitVec.setWidth_eq]

theorem lcdcOf_eq (v : Byte) : lcdcOf v =
    { enable := Claims.bit v 7, windowMapSelect := Claims.bit v 6, windowEnable := Claims.bit v 5,
      tileDataSelect := Claims.bit v 4, bgMapSelect := Claims.bit v 3, spriteSize := Claims.bit v 2,
      spriteEnable := Claims.bit v 1, bgEnable := Claims.bit v 0 } := by
  simp only [lcdcOf, getLsbD_eq_bit]

/-- The enable bit of a control byte as a bound (R183). -/
theorem getLsbD_seven (v : Byte) : v.getLsbD 7 = decide (128 ≤ v.toNat) := BitVec.msb_eq_decide v

theorem memWrite_control (s : State) (v : Byte) :
    s.memWrite 0xFF40#16 v = (s.lcd.writeControl 0xFF40#16 v).map fun l => { s with lcd := l } := memWrite_lcd rfl

/-- Settles O45: `Lcd.writeControl` by its two conditions, the flags as bits of the byte (`lcdcOf_eq`). -/
theorem lcdControlWrite : Obligations.LcdControlWrite := by
  rintro s v l rfl
  rw [← lcdcOf_eq, memWrite_control]
  unfold Lcd.writeControl
  rw [getLsbD_seven]
  refine ⟨fun hen hv hmode => ?_, fun hen hv hmode => ?_, fun hv => ?_⟩
  · rw [if_pos (by simp [hen, hv]), if_neg hmode]; rfl
  · rw [if_pos (by simp [hen, hv]), if_pos hmode]; rfl
  · rw [if_neg (by rcases hv with hoff | hbit <;> simp [*])]; rfl

theorem colourOf_eq (i : BitVec 2) : colourOf i = Claims.colour i.toNat := by
  revert i; decide

theorem dutyOf_eq (i : BitVec 2) : dutyOf i = Claims.duty i.toNat := by
  revert i; decide

/-- The palette of R185 as arithmetic on the byte. -/
theorem paletteOf_eq (v : Byte) : paletteOf v =
    { slot0 := Claims.colour (v.toNat % 4), slot1 := Claims.colour (v.toNat / 4 % 4),
      slot2 := Claims.colour (v.toNat / 16 % 4), slot3 := Claims.colour (v.toNat / 64) } := by
  have htop : v.toNat / 64 % 4 = v.toNat / 64 := by have := v.isLt; omega
  simp only [paletteOf, colourOf_eq, field_toNat, Nat.pow_zero, Nat.div_one, Nat.reducePow, htop]

/-- Settles O46: the write stores the decoded palette, which is the one of `paletteOf_eq`. -/
theorem paletteWrite : Obligations.PaletteWrite := by
  intro s v
  rw [← paletteOf_eq]
  exact memWrite_lcd rfl

/-- Settles O47: both writes are one record update. -/
theorem scrollWrites : Obligations.ScrollWrites := fun _ _ => ⟨memWrite_lcd rfl, memWrite_lcd rfl⟩

/-- The five sound registers, each a write of its own (R201). -/
theorem memWrite_sound_registers (s : State) (v : Byte) :
    s.memWrite 0xFF11#16 v = .ok { s with snd := s.snd.writeLenDuty v } ∧
    s.memWrite 0xFF12#16 v = .ok { s with snd := s.snd.writeEnvelope v } ∧
    s.memWrite 0xFF24#16 v = .ok { s with snd := s.snd.writeChannelCtrl v } ∧
    s.memWrite 0xFF25#16 v = .ok { s with snd := s.snd.writeRouting v } ∧
    s.memWrite 0xFF26#16 v = .ok { s with snd := s.snd.writeMaster v } :=
  ⟨memWrite_sound rfl, memWrite_sound rfl, memWrite_sound rfl, memWrite_sound rfl, memWrite_sound rfl⟩

/-- Settles O52: each register's write (`memWrite_sound_registers`) with its fields as arithmetic on the byte. -/
theorem soundRegisterWrites : Obligations.SoundRegisterWrites := by
  intro s v
  have hduty : v.toNat / 64 % 4 = v.toNat / 64 := by have := v.isLt; omega
  have hroute : v.toNat / 16 % 16 = v.toNat / 16 := by have := v.isLt; omega
  obtain ⟨hlen, henv, hctrl, hroutes, hmaster⟩ := memWrite_sound_registers s v
  refine ⟨hlen.trans ?_, henv.trans ?_, hctrl.trans ?_, hroutes.trans ?_, hmaster.trans ?_⟩
  · simp only [Snd.writeLenDuty, dutyOf_eq, field_toNat, Nat.pow_zero, Nat.div_one, Nat.reducePow, hduty]
  · simp only [Snd.writeEnvelope, field_eq_ofNat, getLsbD_eq_bit, Nat.pow_zero, Nat.div_one, Nat.reducePow]
  · simp only [Snd.writeChannelCtrl, field_eq_ofNat, getLsbD_eq_bit, Nat.pow_zero, Nat.div_one, Nat.reducePow]
  · simp only [Snd.writeRouting, field_eq_ofNat, Nat.pow_zero, Nat.div_one, Nat.reducePow, hroute]
  · simp only [Snd.writeMaster, getLsbD_eq_bit]

end Sys2Proof.Machine
end

section
/-! The mode ring of the LCD controller (R190, R191): O48 and O49. -/
namespace Sys2Proof.Machine

theorem Lcd.advance_eq (l : Lcd) (total : Nat) :
    l.advance total = { l with mode := nextMode l.mode, currentLine := nextLine total l.mode l.currentLine } := rfl

/-- Settles O48: the ring and the count of `Lcd.advance_eq` at each mode. -/
theorem lcdAdvanceRing : Obligations.LcdAdvanceRing := by
  intro l total
  refine ⟨fun h => ?_, fun h => ?_, fun h => ?_, fun h => ?_⟩ <;> rw [Lcd.advance_eq, h] <;> rfl

theorem lcdEvents_add (total j k : Nat) (p : LcdMode × Nat) :
    lcdEvents total (j + k) p = lcdEvents total k (lcdEvents total j p) := by
  induction j generalizing p with
  | zero => rw [Nat.zero_add]; rfl
  | succ j ih => rw [Nat.add_right_comm, lcdEvents, ih]; rfl

theorem Lcd.run_add (l : Lcd) (total j k : Nat) : l.run total (j + k) = (l.run total j).run total k := by
  simp only [Lcd.run, lcdEvents_add]

/-- Four events close the ring once (R190). -/
theorem Lcd.run_four (l : Lcd) (total : Nat) :
    l.run total 4 = { l with currentLine := (l.currentLine + 1) % total } := by
  obtain ⟨_, _, _, _, line, mode⟩ := l
  cases mode <;> rfl

/-- Every four events count one line. -/
theorem Lcd.run_four_mul (l : Lcd) (total k : Nat) (h : l.currentLine < total) :
    l.run total (4 * k) = { l with currentLine := (l.currentLine + k) % total } := by
  induction k with
  | zero => rw [Nat.add_zero, Nat.mod_eq_of_lt h]; rfl
  | succ k ih =>
    rw [Nat.mul_succ, Lcd.run_add, ih, Lcd.run_four]
    simp only [Nat.mod_add_mod, Nat.add_assoc]

/-- Settles O49: `Lcd.run_four`, and `Lcd.run_four_mul` at as many lines as there are. -/
theorem lcdFramePeriod : Obligations.LcdFramePeriod := by
  intro l total h
  refine ⟨Lcd.run_four l total, ?_⟩
  rw [Lcd.run_four_mul l total total h, Nat.add_mod_right, Nat.mod_eq_of_lt h]

end Sys2Proof.Machine
end

section
/-! Power-on (R250, R252) and what holds in every reachable state (R192): O42, O43, O44, O57 and O58. -/
namespace Sys2Proof

theorem totalLines_bounds : 0 < Config.totalLines ∧ Config.totalLines ≤ 256 := by
  have hvisible := Config.visibleSeed.isLt
  have hvblank := Nat.mod_lt Config.vblankSeed (show 0 < 256 - Config.visibleLines by unfold Config.visibleLines; omega)
  unfold Config.totalLines Config.vblankLines
  unfold Config.visibleLines at hvblank ⊢
  omega

end Sys2Proof

namespace Sys2Proof.Machine

/-- Everything a power-on that is not refused answers (R252). -/
theorem powerOn_eq_some {aReset : Byte} {boot cart : List Byte} {s : State} :
    State.powerOn aReset boot cart = some s ↔ boot.length ≤ 0x8000 ∧ cart.length ≤ 0x8000 ∧
      s = { State.reset with a := aReset, mem := imageCells 0 (overlayImages boot cart) } := by
  unfold State.powerOn
  split <;> simp_all [eq_comm]

/-- Settles O43: the images make canonical memory inside the ROM window, and the line and the length are zero. -/
theorem powerOnMeetsInvariant : Obligations.PowerOnMeetsInvariant := by
  intro aReset boot cart s h
  obtain ⟨hboot, hcart, rfl⟩ := powerOn_eq_some.mp h
  have hlength : 0 + (overlayImages boot cart).length ≤ 0x8000 := by rw [overlayImages_length]; omega
  exact ⟨wfFrom_imageCells 0 _, cellsInArrays_imageCells 0 _ hlength, totalLines_bounds.1, Nat.zero_le 64⟩

/-- Settles O42: reset is power-on with both images empty. -/
theorem resetMeetsInvariant : Obligations.ResetMeetsInvariant :=
  powerOnMeetsInvariant Config.aReset [] [] State.reset rfl

theorem reachable_inv {ext : ExtHandlers} {s : State} (h : Reachable ext s) : Inv s :=
  reachable_induction powerOnMeetsInvariant (fun _ _ hs hstep => stepWith_keeps_inv hs hstep) h

/-- Settles O44: the invariant bounds the line in every reachable state (`reachable_inv`), so its byte is the line itself. -/
theorem reachableLineIsAByte : Obligations.ReachableLineIsAByte := by
  refine ⟨totalLines_bounds.2, fun ext s h => ?_⟩
  have hline := (reachable_inv h).line
  refine ⟨hline, _, memRead_line s, ?_⟩
  rw [BitVec.toNat_ofNat, Nat.mod_eq_of_lt (Nat.lt_of_lt_of_le hline totalLines_bounds.2)]

/-- Settles O57: power-on with empty images is one record. -/
theorem resetValues : Obligations.ResetValues := ⟨rfl, fun _ => rfl⟩

/-- Images laid from address 0 read as themselves, 0x00 beyond (R252). -/
theorem read_imageCells_zero (vs : List Byte) (k : Nat) : (imageCells 0 vs).read k = vs.getD k 0x00#8 := by
  rw [read_imageCells, if_pos (Nat.zero_le k), Nat.sub_zero]; rfl

/-- The overlaid images at an address: the boot image, beyond it the cartridge image, beyond both 0x00 (R252). -/
theorem overlayImages_getD_zero (boot cart : List Byte) (k : Nat) : (overlayImages boot cart).getD k 0x00#8 =
    if k < boot.length then boot.getD k 0x00#8 else if k < cart.length then cart.getD k 0x00#8 else 0x00#8 := by
  rw [overlayImages_getD]
  split
  · rfl
  · split
    · rfl
    · exact List.getD_eq_default _ _ (by omega)

/-- Settles O58: memory after power-on reads as the overlaid images (`read_imageCells_zero`, `overlayImages_getD_zero`), which end
inside the ROM window. -/
theorem imagesAtPowerOn : Obligations.ImagesAtPowerOn := by
  intro aReset boot cart
  refine ⟨fun hboot hcart => ?_, fun hlong => if_neg (by omega)⟩
  refine ⟨_, powerOn_eq_some.mpr ⟨hboot, hcart, rfl⟩, rfl, fun addr hrom => ?_, fun addr hram => ?_⟩
  · rw [memRead_array (.inl (by omega)), read_imageCells_zero, overlayImages_getD_zero]
  · have hbeyond : (overlayImages boot cart).length ≤ addr.toNat := by
      rw [overlayImages_length]; unfold RamAddress at hram; omega
    rw [memRead_array (RamAddress.array hram), read_imageCells_zero, List.getD_eq_default _ _ hbeyond]

end Sys2Proof.Machine
end
